-- ==== Sys2Proof/Word.lean ====
section
/-! DEFINITION. The word types of the block (spec/00_scope.md R7, spec/10_state.md R10). -/

namespace Sys2Proof

/-- A byte, bit 7 most significant (R7). -/
abbrev Byte := BitVec 8

/-- A 16-bit register: `cnt`, `len`, and the payload read address (R10, R20). -/
abbrev Word16 := BitVec 16

/-- The selector key `{rst, in_valid, st[2:0], idx[1:0], in_data[7:0]}` (spec/30_encoding.md R50). -/
abbrev Key := BitVec 15

end Sys2Proof
end

