-- ==== Sys2Proof/Syntax.lean ====
section
/-! DEFINITION. The operations of the block, one constructor per row of spec/opcode_table.json
(spec/30_encoding.md R52). -/

namespace Sys2Proof

/-- What the block does in one clock cycle. The operand is the byte `v = in_data` where the row leaves it free and the
operation uses it. -/
inductive Instr where
  /-- RESET (spec/44_idle_reset.md R102). -/
  | reset
  /-- IDLE (spec/44_idle_reset.md R101). -/
  | idle
  /-- S1_HIT: `B5` in SEEKING_SYNC1 (spec/41_sync_search.md R70). -/
  | s1Hit
  /-- S1_MISS: any other byte in SEEKING_SYNC1 (R71). -/
  | s1Miss (v : Byte)
  /-- S2_HIT: `62` in SEEKING_SYNC2 (R72). -/
  | s2Hit
  /-- S2_RESYNC: `B5` in SEEKING_SYNC2 (R73). -/
  | s2Resync
  /-- S2_MISS: any other byte in SEEKING_SYNC2 (R74). -/
  | s2Miss (v : Byte)
  /-- H_CLASS: the class byte (spec/42_header.md R80). -/
  | hClass (v : Byte)
  /-- H_ID: the message id byte (R81). -/
  | hId (v : Byte)
  /-- H_LENLO: the low length byte (R82). -/
  | hLenlo (v : Byte)
  /-- H_LENHI: the high length byte and the length check (R83). -/
  | hLenhi (v : Byte)
  /-- P_BYTE: a payload byte (spec/43_payload_checksum.md R90). -/
  | pByte (v : Byte)
  /-- C_A: the first checksum byte (R91). -/
  | cA (v : Byte)
  /-- C_B: the second checksum byte and the verdict (R92). -/
  | cB (v : Byte)
deriving DecidableEq, Repr

end Sys2Proof
end

