-- ==== Sys2Proof/WellFormed.lean ====
section
/-! DEFINITION. Which terms of `Instr` some key selects: the two search misses exclude the bytes that an earlier row of
the table takes (spec/30_encoding.md R50, R52). -/

namespace Sys2Proof

/-- The operand is one the operation's row is reached with: `v != 0xB5` for S1_MISS (R71), `v` neither `0x62` nor `0xB5`
for S2_MISS (R74), any byte elsewhere. -/
def Instr.wf : Instr → Bool
  | .s1Miss v => v != 0xB5#8
  | .s2Miss v => v != 0x62#8 && v != 0xB5#8
  | .reset | .idle | .s1Hit | .s2Hit | .s2Resync => true
  | .hClass _ | .hId _ | .hLenlo _ | .hLenhi _ | .pByte _ | .cA _ | .cB _ => true

end Sys2Proof
end

