-- ==== Sys2Proof/Decode.lean ====
section
/-! DEFINITION. The operation selector (spec/30_encoding.md Part B): the table of R52 as match and mask rows tried in
priority order, the decoder it gives, and the encoder. -/

namespace Sys2Proof

/-- `SYNC1`, the first synchronization byte (spec/00_scope.md R6). -/
def sync1 : Byte := 0xB5#8

/-- `SYNC2`, the second synchronization byte (R6). -/
def sync2 : Byte := 0x62#8

/-- One row of the operation map of R52: the key is masked and compared, the operand is `in_data`. -/
structure OpRow where
  mnemonic : String
  pattern : Key
  mask : Key
  build : Byte → Instr

/-- `(key AND mask) = match` (R50). -/
def OpRow.selects (r : OpRow) (k : Key) : Bool := k &&& r.mask == r.pattern

/-- The operation map of R52 in priority order. -/
def opTable : List OpRow :=
  [ ⟨"RESET", 0x4000#15, 0x4000#15, fun _ => .reset⟩,
    ⟨"IDLE", 0x0000#15, 0x6000#15, fun _ => .idle⟩,
    ⟨"S1_HIT", 0x20B5#15, 0x7CFF#15, fun _ => .s1Hit⟩,
    ⟨"S1_MISS", 0x2000#15, 0x7C00#15, .s1Miss⟩,
    ⟨"S2_HIT", 0x2462#15, 0x7CFF#15, fun _ => .s2Hit⟩,
    ⟨"S2_RESYNC", 0x24B5#15, 0x7CFF#15, fun _ => .s2Resync⟩,
    ⟨"S2_MISS", 0x2400#15, 0x7C00#15, .s2Miss⟩,
    ⟨"H_CLASS", 0x2800#15, 0x7F00#15, .hClass⟩,
    ⟨"H_ID", 0x2900#15, 0x7F00#15, .hId⟩,
    ⟨"H_LENLO", 0x2A00#15, 0x7F00#15, .hLenlo⟩,
    ⟨"H_LENHI", 0x2B00#15, 0x7F00#15, .hLenhi⟩,
    ⟨"P_BYTE", 0x2C00#15, 0x7C00#15, .pByte⟩,
    ⟨"C_A", 0x3000#15, 0x7F00#15, .cA⟩,
    ⟨"C_B", 0x3100#15, 0x7F00#15, .cB⟩ ]

/-- `key[14] = rst` (R50). -/
def Key.rst (k : Key) : Bool := k.getLsbD 14

/-- `key[13] = in_valid` (R50). -/
def Key.inValid (k : Key) : Bool := k.getLsbD 13

/-- `key[12:10] = st` (R50). -/
def Key.stCode (k : Key) : BitVec 3 := k.extractLsb' 10 3

/-- `key[9:8] = idx` (R50). -/
def Key.idx (k : Key) : BitVec 2 := k.extractLsb' 8 2

/-- `key[7:0] = in_data` (R50). -/
def Key.inData (k : Key) : Byte := k.extractLsb' 0 8

/-- The key made of its five parts, `rst` most significant (R50). -/
def Key.pack (rst inValid : Bool) (stCode : BitVec 3) (idx : BitVec 2) (inData : Byte) : Key :=
  BitVec.ofBool rst ++ BitVec.ofBool inValid ++ stCode ++ idx ++ inData

/-- The operation a key selects: the first row that matches; `none` for the reserved keys of R53. -/
def decodeKey (k : Key) : Option Instr :=
  (opTable.find? fun r => r.selects k).map fun r => r.build k.inData

/-- The key of a well-formed operation: its row's match with the operand in `in_data`. A bit the row leaves free and the
operation does not use is 0 (DESIGN CHOICE, log 15). -/
def encode : Instr → Key
  | .reset => Key.pack true false 0 0 0
  | .idle => Key.pack false false 0 0 0
  | .s1Hit => Key.pack false true 0 0 sync1
  | .s1Miss v => Key.pack false true 0 0 v
  | .s2Hit => Key.pack false true 1 0 sync2
  | .s2Resync => Key.pack false true 1 0 sync1
  | .s2Miss v => Key.pack false true 1 0 v
  | .hClass v => Key.pack false true 2 0 v
  | .hId v => Key.pack false true 2 1 v
  | .hLenlo v => Key.pack false true 2 2 v
  | .hLenhi v => Key.pack false true 2 3 v
  | .pByte v => Key.pack false true 3 0 v
  | .cA v => Key.pack false true 4 0 v
  | .cB v => Key.pack false true 4 1 v

/-- The bits of the key that fix the operation and its operand: the row's mask, and `in_data` where the operation uses
it. The other bits are ignored (R51, R52). -/
def usedMask : Instr → Key
  | .reset => 0x4000#15
  | .idle => 0x6000#15
  | .s1Hit | .s2Hit | .s2Resync => 0x7CFF#15
  | .s1Miss _ | .s2Miss _ | .pByte _ => 0x7CFF#15
  | .hClass _ | .hId _ | .hLenlo _ | .hLenhi _ | .cA _ | .cB _ => 0x7FFF#15

/-- The instruction read from the bits `w` numbered as spec/opcode_table.json numbers them: one key of 15 bits, bit 0
its least significant (R50). A word with a bit set above bit 14 is no key and is refused (log 16). -/
def decodeTableWord (nbits w : Nat) : Option Instr :=
  if w % 2 ^ nbits < 2 ^ 15 then decodeKey (BitVec.ofNat 15 (w % 2 ^ nbits)) else none

end Sys2Proof
end

