-- ==== Sys2Proof/Config.lean ====
section
/-! DEFINITION. The block's build-time parameters (spec/00_scope.md R6) and its free values
(spec/93_implementation_defined.md U2, U3). -/

namespace Sys2Proof

/-- The parameters an implementation fixes when it is built; none can change while the block runs (R6). -/
structure Config where
  /-- `MAX_LEN`, the largest payload length accepted, 0..65535, OPEN (R6, D6). -/
  maxLen : Fin 65536
  /-- `DROP_W`, the width in bits of the dropped-bytes counter (R6, D7). -/
  dropW : Nat
deriving DecidableEq, Repr

/-- The bound of R6 on `DROP_W`; the bound on `MAX_LEN` is its type. -/
abbrev Config.wf (c : Config) : Prop := 1 ≤ c.dropW

/-- The default of `DROP_W` (R6, D7). Nothing in the model depends on it. -/
def Config.dropWDefault : Nat := 32

/-- `MAX_LEN` of the block that `State.reset` describes: no value can be proved of it (log 1). -/
opaque Config.builtMaxLen : Fin 65536

/-- `DROP_W - 1` of the block that `State.reset` describes: no value can be proved of it (log 1). -/
opaque Config.builtDropWPred : Nat

/-- The parameters of the block that `State.reset` describes. DESIGN CHOICE, log 1: any values R6 allows, safe. -/
def Config.built : Config := ⟨Config.builtMaxLen, Config.builtDropWPred + 1⟩

/-- The byte on `pl_rdata` where no rule fixes it: a cell never written (U2) or an address at or above `MAX_LEN` (U3).
The first argument numbers the read, so two reads of one cell need not agree (R34). Free value, log 4, safe. -/
opaque Config.undrivenByte : Nat → Word16 → Byte

end Sys2Proof
end

