-- ==== Sys2Proof/Machine/State.lean ====
section
/-! DEFINITION. The architectural state of UBXSYNC (spec/10_state.md R10), its inputs and outputs (R20), the reasons a
step can stop, and the state after reset (R21). -/

namespace Sys2Proof.Machine

/-- The register `st`: the five states of the reassembler (R11). Codes 5, 6, 7 have no constructor, as R11 asks
(log 10); the codes are `RxState.code`. -/
inductive RxState where
  | seekingSync1
  | seekingSync2
  | readingHeader
  | readingPayload
  | readingChecksum
deriving DecidableEq, Repr

/-- The event register `ev` (R17); the codes are `Event.code`. -/
inductive Event where
  | none
  | frameOk
  | ckMismatch
  | frameTooLarge
deriving DecidableEq, Repr

/-- What the transport presents in one clock cycle (R20): `rst`, `in_valid`, `in_data`. -/
structure CycleInput where
  rst : Bool
  inValid : Bool
  inData : Byte
deriving DecidableEq, Repr

/-- The payload buffer: the cells some P_BYTE has written, at strictly rising addresses (R19, R30). A cell that is not
listed has not been written, and what it reads as is a free value (log 4). -/
abbrev Memory := List Host.Cell

/-- Why the machine stops with a fault. -/
inductive Fault where
  /-- Raised by P_BYTE when `cnt >= MAX_LEN`: the address does not exist (spec/20_memory.md R31). No reachable state
  raises it (R33). Safe: the model stops where nothing is promised (log 9). -/
  | pbufAddress
deriving DecidableEq, Repr

/-- Why the machine has no meaning for a step. -/
inductive Refusal where
  /-- An instruction with no meaning yet; no arm of `exec` raises it. Safe. -/
  | notModelled (mnemonic : String)
  /-- Raised by an operation's meaning in a state, or with an operand, its row of R52 does not select. `step` never
  raises it from a state in which the key selects the operation. Safe (log 8). -/
  | notSelected
  /-- Raised by a byte operation in a state that R105 rules out and spec/93_implementation_defined.md U4 gives no
  meaning. Safe (log 7). -/
  | undefinedState
  /-- Raised by `tick` when the key matches no row (spec/30_encoding.md R53, U4). Safe (log 7). -/
  | reservedKey
  /-- Raised by `step` when no cycle input is pending: the run has ended (spec/70_reset_and_hazards.md R144). Safe
  (log 2). -/
  | endOfInput
deriving DecidableEq, Repr

/-- The whole state of the block (R10), with two fields of the model's own, `cfg` and `input`. -/
structure State where
  /-- The build-time parameters `MAX_LEN` and `DROP_W` (R6); no operation writes them (log 1). -/
  cfg : Config
  /-- Reassembler state (R11). -/
  st : RxState
  /-- Byte index inside the header or the checksum (R12). -/
  idx : BitVec 2
  /-- Payload bytes received so far in the current frame (R15). -/
  cnt : Word16
  /-- Class byte of the current or last frame (R14). -/
  cls : Byte
  /-- Message id byte of the current or last frame (R14). -/
  mid : Byte
  /-- Payload length of the current or last frame (R14). -/
  len : Word16
  /-- Running accumulator a (R16). -/
  ckA : Byte
  /-- Running accumulator b (R16). -/
  ckB : Byte
  /-- Received `checksum_a`, held until `checksum_b` arrives (R16). -/
  rxA : Byte
  /-- Event of the last cycle (R17). -/
  ev : Event
  /-- Dropped-bytes count, below `2^DROP_W` (R18, log 11). -/
  dropped : Nat
  /-- Payload buffer (R19). -/
  pbuf : Memory
  /-- The cycle inputs still to come, the next one first (R5, log 2). -/
  input : List CycleInput
deriving DecidableEq, Repr

/-- What the ports of R20 show in one cycle, for a block whose `DROP_W` is `dropW`. -/
structure Outputs (dropW : Nat) where
  ev : BitVec 2
  state : BitVec 3
  clsO : Byte
  idO : Byte
  lenO : Word16
  droppedO : BitVec dropW
  plRdata : Byte
deriving DecidableEq, Repr

/-- The state right after RESET (R21, R142). `pbuf` has no written cell, so a read of any of its cells is free (R141,
log 4); the parameters are any (log 1); nothing is pending on the input (log 2). -/
def State.reset : State where
  cfg := Config.built
  st := .seekingSync1
  idx := 0
  cnt := 0
  cls := 0
  mid := 0
  len := 0
  ckA := 0
  ckB := 0
  rxA := 0
  ev := .none
  dropped := 0
  pbuf := []
  input := []

end Sys2Proof.Machine
end

