-- ==== Sys2Proof/Machine/Operands.lean ====
section
/-! DEFINITION. How an operation gets its operands: the register codes, the selector key of a cycle
(spec/30_encoding.md R50), the length assembly (R47) and the frame position (spec/10_state.md R13). -/

namespace Sys2Proof.Machine

/-- The code of `st` on the port `state` and in the key (R11). -/
def RxState.code : RxState → BitVec 3
  | .seekingSync1 => 0
  | .seekingSync2 => 1
  | .readingHeader => 2
  | .readingPayload => 3
  | .readingChecksum => 4

/-- The state a code stands for; codes 5, 6, 7 stand for none (R11). -/
def RxState.ofCode? (c : BitVec 3) : Option RxState :=
  if c = 0 then some .seekingSync1
  else if c = 1 then some .seekingSync2
  else if c = 2 then some .readingHeader
  else if c = 3 then some .readingPayload
  else if c = 4 then some .readingChecksum
  else none

/-- The selector key of a cycle in state `s` with inputs `c` (R50). -/
def selectorKey (s : State) (c : CycleInput) : Key :=
  Key.pack c.rst c.inValid s.st.code s.idx c.inData

/-- `u16le(lo, hi) = lo + 256 * hi` (spec/00_scope.md R7, R47). -/
def u16le (lo hi : Byte) : Word16 := hi ++ lo

/-- `x[7:0]` of a 16-bit register. -/
def loByte (x : Word16) : Byte := x.extractLsb' 0 8

/-- `x[15:8]` of a 16-bit register. -/
def hiByte (x : Word16) : Byte := x.extractLsb' 8 8

/-- The header bytes of the frame as the registers hold them: class, id, length-lo, length-hi (R45, R47). -/
def headerBytes (s : State) : List Byte := [s.cls, s.mid, loByte s.len, hiByte s.len]

/-- The frame position `pos`: the wire offset of the byte expected next (R13). -/
def framePos (s : State) : Nat :=
  match s.st with
  | .seekingSync1 => 0
  | .seekingSync2 => 1
  | .readingHeader => 2 + s.idx.toNat
  | .readingPayload => 6 + s.cnt.toNat
  | .readingChecksum => 6 + s.len.toNat + s.idx.toNat

end Sys2Proof.Machine
end

