-- ==== Sys2Proof/Machine/Flags.lean ====
section
/-! DEFINITION. Everything the block computes as a status: the running checksum (spec/40_fletcher_codec.md R60), the
verdict on a frame (spec/43_payload_checksum.md R92), the event codes (spec/10_state.md R17), the dropped-bytes count (R18). -/

namespace Sys2Proof.Machine

/-- One step of the checksum: `a' = (a + v) mod 256`, `b' = (b + a') mod 256`; `b` adds the updated `a` (R60). -/
def fletcherStep (ab : Byte × Byte) (v : Byte) : Byte × Byte :=
  (ab.1 + v, ab.2 + (ab.1 + v))

/-- The code of `ev` on its port (R17). -/
def Event.code : Event → BitVec 2
  | .none => 0
  | .frameOk => 1
  | .ckMismatch => 2
  | .frameTooLarge => 3

/-- The verdict of C_B on the received checksum bytes (R92). -/
def verdict (ckA ckB rxA v : Byte) : Event :=
  if rxA = ckA ∧ v = ckB then .frameOk else .ckMismatch

/-- `(dropped + k) mod 2^DROP_W` (R18, R71, R73, R74). -/
def dropCount (dropW dropped k : Nat) : Nat := (dropped + k) % 2 ^ dropW

end Sys2Proof.Machine
end

