-- ==== Sys2Proof/Machine/Ops.lean ====
section
/-! DEFINITION. The named operations over memory and registers that the meanings share, signalling an event among them
(spec/60_exceptions.md R130), and the read port and outputs (spec/10_state.md R20). -/

namespace Sys2Proof.Machine

/-- The byte a cell holds; `none` where no write has reached the cell (spec/20_memory.md R34, U2). -/
def Memory.read : Memory → Nat → Option Byte
  | [], _ => none
  | (a, b) :: m, k => if a = k then some b else Memory.read m k

/-- `pbuf[k] <- v`, keeping the addresses strictly rising. -/
def Memory.write : Memory → Nat → Byte → Memory
  | [], k, v => [(k, v)]
  | (a, b) :: m, k, v =>
    if k < a then (k, v) :: (a, b) :: m
    else if k = a then (k, v) :: m
    else (a, b) :: Memory.write m k v

/-- The canonical form: addresses strictly rising. What an unlisted cell reads as is no byte, so no entry equals it. -/
abbrev Memory.wf (m : Memory) : Prop := m.Pairwise fun x y => x.1 < y.1

/-- Every listed cell is a cell of a buffer of `n` cells (R30). -/
abbrev Memory.within (m : Memory) (n : Nat) : Prop := ∀ c ∈ m, c.1 < n

/-- The `n` cells from address `a` up, if all have been written: `pbuf[a..a+n-1]`. -/
def Memory.readRange (m : Memory) (a : Nat) : Nat → Option (List Byte)
  | 0 => some []
  | n + 1 =>
    match Memory.read m a, Memory.readRange m (a + 1) n with
    | some b, some bs => some (b :: bs)
    | _, _ => none

/-- The read port: `pbuf[pl_raddr]` if that cell exists and has been written; otherwise any byte, numbered by the read
(R34, U2, U3). -/
def readPort (s : State) (nth : Nat) (plRaddr : Word16) : Byte :=
  if plRaddr.toNat < s.cfg.maxLen.val then
    (Memory.read s.pbuf plRaddr.toNat).getD (Config.undrivenByte nth plRaddr)
  else Config.undrivenByte nth plRaddr

/-- The output ports of R20 in state `s`, with `pl_raddr` as the consumer drives it; `nth` numbers the read. -/
def outputs (s : State) (nth : Nat) (plRaddr : Word16) : Outputs s.cfg.dropW where
  ev := s.ev.code
  state := s.st.code
  clsO := s.cls
  idO := s.mid
  lenO := s.len
  droppedO := BitVec.ofNat s.cfg.dropW s.dropped
  plRdata := readPort s nth plRaddr

/-- `ev <- e`; every operation writes `ev` (R17). -/
def State.setEvent (s : State) (e : Event) : State := { s with ev := e }

/-- `st <- r ; idx <- 0`: entering a state at its first byte (R12). -/
def State.enter (s : State) (r : RxState) : State := { s with st := r, idx := 0 }

/-- `dropped <- (dropped + k) mod 2^DROP_W` (R18). -/
def State.drop (s : State) (k : Nat) : State :=
  { s with dropped := dropCount s.cfg.dropW s.dropped k }

/-- `ck_a <- 0x00 ; ck_b <- 0x00` (R72). -/
def State.clearChecksum (s : State) : State := { s with ckA := 0, ckB := 0 }

/-- `ck_a <- ck_a' ; ck_b <- ck_b'`: one covered byte enters the running checksum (R16, R60). -/
def State.accumulate (s : State) (v : Byte) : State :=
  { s with
    ckA := (fletcherStep (s.ckA, s.ckB) v).1
    ckB := (fletcherStep (s.ckA, s.ckB) v).2 }

/-- `pbuf[cnt] <- v ; cnt <- cnt + 1` (spec/43_payload_checksum.md R90). -/
def State.storePayload (s : State) (v : Byte) : State :=
  { s with pbuf := Memory.write s.pbuf s.cnt.toNat v, cnt := s.cnt + 1 }

/-- Signalling an event that ends a framed run: `st <- SEEKING_SYNC1`, `idx <- 0`, `ev <- e`, nothing else (R130). There
is no return operation; recovery is the next byte (R131). -/
def State.signal (s : State) (e : Event) : State :=
  { s with st := .seekingSync1, idx := 0, ev := e }

/-- The state after a RESET performed in `s`: the registers of R21; `pbuf`, the parameters and the transport's pending
inputs are not the operation's to change (R102). -/
def State.afterReset (s : State) : State :=
  { State.reset with cfg := s.cfg, pbuf := s.pbuf, input := s.input }

/-- An operation has its effect where its row of R52 selects it; elsewhere the spec gives it none (log 8). -/
def whenSelected (sel : Prop) [Decidable sel] (o : Host.Outcome State Fault Refusal) :
    Host.Outcome State Fault Refusal :=
  if sel then o else .refused .notSelected

/-- A byte operation has no meaning in the unreachable states of spec/93_implementation_defined.md U4 (log 7). -/
def whenDefined (ok : Prop) [Decidable ok] (o : Host.Outcome State Fault Refusal) :
    Host.Outcome State Fault Refusal :=
  if ok then o else .refused .undefinedState

end Sys2Proof.Machine
end

