-- ==== Sys2Proof/Machine/Header.lean ====
section
/-! DEFINITION. The header operations (spec/42_header.md). -/

namespace Sys2Proof.Machine

/-- H_CLASS (R80). -/
def execHClass (v : Byte) (s : State) : Host.Outcome State Fault Refusal :=
  whenSelected (s.st = .readingHeader ∧ s.idx = 0) <|
    .next (({ s.accumulate v with cls := v, idx := 1 } : State).setEvent .none)

/-- H_ID (R81). -/
def execHId (v : Byte) (s : State) : Host.Outcome State Fault Refusal :=
  whenSelected (s.st = .readingHeader ∧ s.idx = 1) <|
    .next (({ s.accumulate v with mid := v, idx := 2 } : State).setEvent .none)

/-- H_LENLO (R82): `len <- zext_16(v)`. -/
def execHLenlo (v : Byte) (s : State) : Host.Outcome State Fault Refusal :=
  whenSelected (s.st = .readingHeader ∧ s.idx = 2) <|
    .next (({ s.accumulate v with len := v.zeroExtend 16, idx := 3 } : State).setEvent .none)

/-- H_LENHI (R83): the length is whole, an oversize one aborts the run with FRAME_TOO_LARGE, an empty payload goes
straight to the checksum. -/
def execHLenhi (v : Byte) (s : State) : Host.Outcome State Fault Refusal :=
  whenSelected (s.st = .readingHeader ∧ s.idx = 3) <|
    let l : Word16 := u16le (loByte s.len) v
    let t : State := { s.accumulate v with len := l, cnt := 0 }
    .next
      (if s.cfg.maxLen.val < l.toNat then t.signal .frameTooLarge
       else if l = 0 then (t.enter .readingChecksum).setEvent .none
       else (t.enter .readingPayload).setEvent .none)

end Sys2Proof.Machine
end

