-- ==== Sys2Proof/Machine/Payload.lean ====
section
/-! DEFINITION. The payload and checksum operations (spec/43_payload_checksum.md). -/

namespace Sys2Proof.Machine

/-- P_BYTE (R90). `idx != 0` and `cnt >= len` are states of U4; an address at or above `MAX_LEN` does not exist (R31) and
faults, which R33 rules out in every reachable state (log 9). -/
def execPByte (v : Byte) (s : State) : Host.Outcome State Fault Refusal :=
  whenSelected (s.st = .readingPayload) <|
    whenDefined (s.idx = 0 ∧ s.cnt.toNat < s.len.toNat) <|
      if s.cnt.toNat < s.cfg.maxLen.val then
        let t := ((s.storePayload v).accumulate v).setEvent .none
        .next (if s.cnt + 1 = s.len then t.enter .readingChecksum else t)
      else .fault .pbufAddress

/-- C_A (R91): the byte is only held; no early abort. -/
def execCA (v : Byte) (s : State) : Host.Outcome State Fault Refusal :=
  whenSelected (s.st = .readingChecksum ∧ s.idx = 0) <|
    .next (({ s with rxA := v, idx := 1 } : State).setEvent .none)

/-- C_B (R92): the verdict, and back to the search whatever it is. -/
def execCB (v : Byte) (s : State) : Host.Outcome State Fault Refusal :=
  whenSelected (s.st = .readingChecksum ∧ s.idx = 1) <|
    .next (s.signal (verdict s.ckA s.ckB s.rxA v))

end Sys2Proof.Machine
end

