-- ==== Sys2Proof/Machine/Search.lean ====
section
/-! DEFINITION. The sync search operations (spec/41_sync_search.md). -/

namespace Sys2Proof.Machine

/-- S1_HIT (R70). -/
def execS1Hit (s : State) : Host.Outcome State Fault Refusal :=
  whenSelected (s.st = .seekingSync1) <| whenDefined (s.idx = 0) <|
    .next (({ s with st := .seekingSync2 } : State).setEvent .none)

/-- S1_MISS (R71). -/
def execS1Miss (v : Byte) (s : State) : Host.Outcome State Fault Refusal :=
  whenSelected (s.st = .seekingSync1 ∧ v ≠ sync1) <| whenDefined (s.idx = 0) <|
    .next ((s.drop 1).setEvent .none)

/-- S2_HIT (R72). -/
def execS2Hit (s : State) : Host.Outcome State Fault Refusal :=
  whenSelected (s.st = .seekingSync2) <| whenDefined (s.idx = 0) <|
    .next (((s.enter .readingHeader).clearChecksum).setEvent .none)

/-- S2_RESYNC (R73): the older `B5` is dropped, the new one is held (90_conflicts.md C1). -/
def execS2Resync (s : State) : Host.Outcome State Fault Refusal :=
  whenSelected (s.st = .seekingSync2) <| whenDefined (s.idx = 0) <|
    .next ((s.drop 1).setEvent .none)

/-- S2_MISS (R74): the held `B5` and `v` are dropped. -/
def execS2Miss (v : Byte) (s : State) : Host.Outcome State Fault Refusal :=
  whenSelected (s.st = .seekingSync2 ∧ v ≠ sync2 ∧ v ≠ sync1) <| whenDefined (s.idx = 0) <|
    .next (({ s with st := .seekingSync1 } : State).drop 2 |>.setEvent .none)

end Sys2Proof.Machine
end

