-- ==== Sys2Proof/Machine/System.lean ====
section
/-! DEFINITION. RESET and IDLE (spec/44_idle_reset.md). -/

namespace Sys2Proof.Machine

/-- RESET (R102): whatever the state; the byte of its cycle is lost and not counted. -/
def execReset (s : State) : Host.Outcome State Fault Refusal := .next s.afterReset

/-- IDLE (R101): `ev <- NONE`, whatever the state. -/
def execIdle (s : State) : Host.Outcome State Fault Refusal := .next (s.setEvent .none)

end Sys2Proof.Machine
end

