-- ==== Sys2Proof/Machine/Dispatch.lean ====
section
/-! DEFINITION. One arm per operation (spec/30_encoding.md R52). -/

namespace Sys2Proof.Machine

def exec (i : Instr) (s : State) : Host.Outcome State Fault Refusal :=
  match i with
  | .reset => Sys2Proof.Machine.execReset s
  | .idle => Sys2Proof.Machine.execIdle s
  | .s1Hit => Sys2Proof.Machine.execS1Hit s
  | .s1Miss v => Sys2Proof.Machine.execS1Miss v s
  | .s2Hit => Sys2Proof.Machine.execS2Hit s
  | .s2Resync => Sys2Proof.Machine.execS2Resync s
  | .s2Miss v => Sys2Proof.Machine.execS2Miss v s
  | .hClass v => Sys2Proof.Machine.execHClass v s
  | .hId v => Sys2Proof.Machine.execHId v s
  | .hLenlo v => Sys2Proof.Machine.execHLenlo v s
  | .hLenhi v => Sys2Proof.Machine.execHLenhi v s
  | .pByte v => Sys2Proof.Machine.execPByte v s
  | .cA v => Sys2Proof.Machine.execCA v s
  | .cB v => Sys2Proof.Machine.execCB v s

end Sys2Proof.Machine
end

