-- ==== Sys2Proof/Machine/Tick.lean ====
section
/-! DEFINITION. The cycle step and the byte step (spec/44_idle_reset.md R100, R103, spec/00_scope.md R8), and how a key
is placed where the next cycle reads it. -/

namespace Sys2Proof.Machine

/-- A cycle that carries the byte `v`. -/
def CycleInput.byte (v : Byte) : CycleInput := ⟨false, true, v⟩

/-- A cycle with no byte. `in_data` is ignored (R51), so its value does not matter. -/
def CycleInput.idle : CycleInput := ⟨false, false, 0⟩

/-- A reset cycle. The other inputs are ignored (R51). -/
def CycleInput.reset : CycleInput := ⟨true, false, 0⟩

/-- `Tick(S, rst, in_valid, in_data)`: the state after the clock edge that ends a cycle with inputs `c` (R100). -/
def tick (s : State) (c : CycleInput) : Host.Outcome State Fault Refusal :=
  match decodeKey (selectorKey s c) with
  | some i => exec i s
  | none => .refused .reservedKey

/-- `Feed(S, v) = Tick(S, 0, 1, v)` (R103). -/
def feed (s : State) (v : Byte) : Host.Outcome State Fault Refusal := tick s (.byte v)

/-- One cycle on the next pending input, if there is one (R5, R144, log 2). -/
def stepPending (s : State) : Host.Outcome State Fault Refusal :=
  match s.input with
  | [] => .refused .endOfInput
  | c :: rest => tick { s with input := rest } c

/-- The state in which the operation `i` is the one selected by its key: `st` and `idx` as the key has them, with `idx`
0 where the row leaves it free (R12, R52). A payload byte needs a frame of at least one byte in progress, hence `MAX_LEN`
at least 1 (R83, log 3). RESET and IDLE are selected in every state. -/
def State.placed (s : State) (i : Instr) (k : Key) : State :=
  match i with
  | .reset | .idle => s
  | .s1Hit | .s1Miss _ | .s2Hit | .s2Resync | .s2Miss _ =>
    { s with st := (RxState.ofCode? k.stCode).getD s.st, idx := 0 }
  | .hClass _ | .hId _ | .hLenlo _ | .hLenhi _ | .cA _ | .cB _ =>
    { s with st := (RxState.ofCode? k.stCode).getD s.st, idx := k.idx }
  | .pByte _ =>
    { s with
      cfg := { s.cfg with maxLen := ⟨s.cfg.maxLen.val - 1 + 1, by omega⟩ }
      st := .readingPayload, idx := 0, cnt := 0, len := 1 }

/-- `s` with the key `w` where the next cycle reads it: its inputs first among the pending ones, its `st` and `idx` in the
registers. A word that is no key, or a key that no row matches, is stood for by the reserved key the registers can hold,
READING_CHECKSUM with `idx` 3 (R53, log 3). -/
def State.withKey (s : State) (nbits w : Nat) : State :=
  let k : Key := BitVec.ofNat 15 (w % 2 ^ nbits)
  match decodeTableWord nbits w with
  | some i => { s.placed i k with input := ⟨k.rst, k.inValid, k.inData⟩ :: s.input }
  | none => { s with st := .readingChecksum, idx := 3, input := ⟨false, true, k.inData⟩ :: s.input }

end Sys2Proof.Machine
end

