-- ==== Sys2Proof/Machine/Step.lean ====
section
/-! DEFINITION. The step of the machine the host runs. -/

namespace Sys2Proof.Machine

/-- One clock cycle: the operation the state and the next pending inputs select (R100). -/
def step (s : State) : Host.Outcome State Fault Refusal := stepPending s

/-- `s` with the key `w` placed so that the next step runs its operation. -/
def State.withFetchWord (s : State) (nbits w : Nat) : State := s.withKey nbits w

end Sys2Proof.Machine
end

