-- ==== Sys2Proof/Machine/Codec.lean ====
section
/-! DEFINITION. The reference functions `fletcher8`, `encode`, `decode` (spec/40_fletcher_codec.md). No port of the block
invokes them; the streaming block is held to them (spec/45_properties.md R109). -/

namespace Sys2Proof.Machine

/-- A frame as a data value: class, id, and a payload of 0..65535 bytes; the length field is the payload's length, and two
frames are equal when these three are (R63). -/
@[ext] structure Frame where
  cls : Byte
  mid : Byte
  payload : List Byte
  /-- The bound of R63: no longer payload is a frame's. -/
  bound : payload.length ≤ 65535
deriving DecidableEq, Repr

/-- `Frame(class, id, payload)`, where the payload is short enough for a frame (R63). -/
def Frame.make? (cls mid : Byte) (payload : List Byte) : Option Frame :=
  if h : payload.length ≤ 65535 then some ⟨cls, mid, payload, h⟩ else none

/-- The errors of `encode` and `decode` (R61, R62). None has an event code but `checksumMismatch` (R64). -/
inductive CodecError where
  | syncMismatch
  | lengthExceedsBuffer
  | checksumMismatch
  | payloadTooLarge
deriving DecidableEq, Repr

/-- `fletcher8(s)`: `fletcher_step` folded over `s` from left to right, starting from (0, 0) (R60). -/
def fletcher8 (s : List Byte) : Byte × Byte := s.foldl fletcherStep (0, 0)

/-- The covered bytes of a frame: class, id, the two length bytes, the payload (R48, R61). -/
def coveredBytes (cls mid : Byte) (payload : List Byte) : List Byte :=
  [cls, mid, BitVec.ofNat 8 (payload.length % 256), BitVec.ofNat 8 (payload.length / 256)] ++ payload

/-- `encode(class, id, payload)` (R61); it does not know `MAX_LEN`. -/
def encodeFrame (cls mid : Byte) (payload : List Byte) : Except CodecError (List Byte) :=
  if 65535 < payload.length then .error .payloadTooLarge
  else
    let body := coveredBytes cls mid payload
    .ok ([sync1, sync2] ++ body ++ [(fletcher8 body).1, (fletcher8 body).2])

/-- `POLL(c, i) = encode(c, i, [])` (R54, R65). -/
def encodePoll (cls mid : Byte) : Except CodecError (List Byte) := encodeFrame cls mid []

/-- The length field of a byte run that has one: offsets 4 and 5, little-endian (R62 step 3). -/
def runLength (s : List Byte) : Nat := (s.getD 4 0).toNat + 256 * (s.getD 5 0).toNat

/-- `s[i..j]` with `j = i + n - 1` (R7). -/
def sliceBytes (s : List Byte) (i n : Nat) : List Byte := (s.drop i).take n

theorem runLength_le (s : List Byte) : runLength s ≤ 65535 := by
  have h₁ := (s.getD 4 0).isLt
  have h₂ := (s.getD 5 0).isLt
  unfold runLength; omega

/-- What `decode` cuts out as the payload is short enough for a frame (R62, R63). -/
theorem payloadSlice_length_le (s : List Byte) : (sliceBytes s 6 (runLength s)).length ≤ 65535 :=
  (List.length_take_le _ _).trans (runLength_le s)

/-- `decode(s)` with its checks in the order of R62; bytes after the frame are ignored; it does not know `MAX_LEN`. -/
def decodeFrame (s : List Byte) : Except CodecError Frame :=
  if s.length < 2 ∨ s.getD 0 0 ≠ sync1 ∨ s.getD 1 0 ≠ sync2 then .error .syncMismatch
  else if s.length < 8 then .error .lengthExceedsBuffer
  else if s.length < runLength s + 8 then .error .lengthExceedsBuffer
  else if fletcher8 (sliceBytes s 2 (runLength s + 4))
      ≠ (s.getD (6 + runLength s) 0, s.getD (7 + runLength s) 0) then .error .checksumMismatch
  else .ok ⟨s.getD 2 0, s.getD 3 0, sliceBytes s 6 (runLength s), payloadSlice_length_le s⟩

end Sys2Proof.Machine
end

