-- ==== Sys2Proof/Machine/Stream.lean ====
section
/-! DEFINITION. Runs of the block: the fold of `tick`, traces (spec/00_scope.md R8), the stream notation
(spec/30_encoding.md R54), the frame an event denotes
(spec/60_exceptions.md R126), and the byte accounting of spec/45_properties.md R108. -/

namespace Sys2Proof.Machine

/-- The state after the cycles `cs`, one `tick` each, stopping at the first stop. -/
def runCycles : List CycleInput → State → Host.Outcome State Fault Refusal
  | [], s => .next s
  | c :: cs, s =>
    match tick s c with
    | .next t => runCycles cs t
    | .fault r => .fault r
    | .refused r => .refused r

/-- A run on a byte sequence: `Feed` folded over it (R8). -/
def feedAll (bs : List Byte) (s : State) : Host.Outcome State Fault Refusal :=
  runCycles (bs.map .byte) s

/-- The trace of R54: the operation each cycle performs and the state after its edge. -/
def opTrace : List CycleInput → State → List (Instr × State)
  | [], _ => []
  | c :: cs, s =>
    match decodeKey (selectorKey s c) with
    | none => []
    | some i =>
      match exec i s with
      | .next t => (i, t) :: opTrace cs t
      | .fault _ => []
      | .refused _ => []

/-- The event trace: the values other than NONE that `ev` takes, in order (R8). -/
def eventTrace (cs : List CycleInput) (s : State) : List Event :=
  ((opTrace cs s).map fun r => r.2.ev).filter (· ≠ .none)

/-- `Frame(cls, mid, pbuf[0..len-1])` as the registers and the buffer hold it; `none` where one of these cells has not been
written. -/
def State.describedFrame (s : State) : Option Frame :=
  (Memory.readRange s.pbuf 0 s.len.toNat).bind (Frame.make? s.cls s.mid)

/-- The frame value the event of the last cycle denotes: FRAME_OK, in the state right after the C_B edge, denotes the frame
described there; no other event denotes one (spec/60_exceptions.md R126). -/
def State.deliveredFrame (t : State) : Option Frame :=
  if t.ev = .frameOk then t.describedFrame else none

/-- The frames a run delivers, in order: those its events denote (R126). -/
def frameTrace (cs : List CycleInput) (s : State) : List Frame :=
  (opTrace cs s).filterMap fun r => r.2.deliveredFrame

/-- The input bytes an operation discards in the search (R18). -/
def discardedBytes : Instr → Nat
  | .s1Miss _ => 1
  | .s2Resync => 1
  | .s2Miss _ => 2
  | .reset | .idle | .s1Hit | .s2Hit => 0
  | .hClass _ | .hId _ | .hLenlo _ | .hLenhi _ | .pByte _ | .cA _ | .cB _ => 0

/-- The bytes of the framed run that ends with the operation whose state after is `t`: `len + 8` for a complete run, 6 for
an aborted one, none where no run ends (R108). -/
def finishedBytes (t : State) : Nat :=
  match t.ev with
  | .none => 0
  | .frameOk | .ckMismatch => t.len.toNat + 8
  | .frameTooLarge => 6

/-- `D` of R108 over a trace: the true number of discarded search bytes. -/
def discardedTotal (tr : List (Instr × State)) : Nat := (tr.map fun r => discardedBytes r.1).sum

/-- `F` of R108 over a trace: the bytes of finished framed runs. -/
def finishedTotal (tr : List (Instr × State)) : Nat := (tr.map fun r => finishedBytes r.2).sum

/-- An item of the stream notation (R54). -/
inductive StreamItem where
  /-- `HH*n`: `n` accepted bytes; `HH` is `HH*1`. -/
  | bytes (v : Byte) (n : Nat)
  /-- `--*n`: `n` idle cycles; `--` is `--*1`. -/
  | idles (n : Nat)
  /-- `RST`. -/
  | rst
  /-- `FRAME(c, i, [p0 p1 ...])`; `POLL(c, i)` is the one with no payload. -/
  | frame (cls mid : Byte) (payload : List Byte)
deriving DecidableEq, Repr

/-- The cycles an item stands for (R54); a frame that `encode` refuses has none. -/
def StreamItem.expand : StreamItem → Except CodecError (List CycleInput)
  | .bytes v n => .ok (List.replicate n (.byte v))
  | .idles n => .ok (List.replicate n .idle)
  | .rst => .ok [.reset]
  | .frame c i p =>
    match encodeFrame c i p with
    | .ok bs => .ok (bs.map .byte)
    | .error e => .error e

/-- The operation of a cycle by the case distinction of R100, without the table of R52. -/
def dispatchByState (s : State) (c : CycleInput) : Option Instr :=
  if c.rst then some .reset
  else if !c.inValid then some .idle
  else match s.st with
    | .seekingSync1 => if c.inData = sync1 then some .s1Hit else some (.s1Miss c.inData)
    | .seekingSync2 =>
      if c.inData = sync2 then some .s2Hit
      else if c.inData = sync1 then some .s2Resync
      else some (.s2Miss c.inData)
    | .readingHeader =>
      if s.idx = 0 then some (.hClass c.inData)
      else if s.idx = 1 then some (.hId c.inData)
      else if s.idx = 2 then some (.hLenlo c.inData)
      else some (.hLenhi c.inData)
    | .readingPayload => some (.pByte c.inData)
    | .readingChecksum =>
      if s.idx = 0 then some (.cA c.inData)
      else if s.idx = 1 then some (.cB c.inData)
      else none

end Sys2Proof.Machine
end

