-- ==== Sys2Proof/Safety.lean ====
section
/-! DEFINITION. What counts as a safe state and a safe run, in the terms of spec/45_properties.md. -/

namespace Sys2Proof.Machine

/-- SEEKING_SYNC1 or SEEKING_SYNC2. -/
abbrev State.searching (s : State) : Prop := s.st = .seekingSync1 ∨ s.st = .seekingSync2

/-- The last line of R105 as written: `cnt <= len or len > MAX_LEN`. -/
abbrev State.countLine (s : State) : Prop := s.cnt.toNat ≤ s.len.toNat ∨ s.cfg.maxLen.val < s.len.toNat

/-- Between H_LENLO and H_LENHI: `len` is already the new frame's low byte (R82), `cnt` still the older frame's (R83). -/
abbrev State.betweenLengthBytes (s : State) : Prop := s.st = .readingHeader ∧ s.idx = 3

/-- The structural invariant of R105. Its last line is carried for every state but those between the two length bytes, where
R82 and R83 break it, as row 21 of program P2 shows (log 6). -/
abbrev State.structural (s : State) : Prop :=
  (s.st = .seekingSync1 ∨ s.st = .seekingSync2 ∨ s.st = .readingPayload → s.idx = 0)
  ∧ (s.st = .readingChecksum → s.idx.toNat ≤ 1 ∧ s.cnt = s.len ∧ s.len.toNat ≤ s.cfg.maxLen.val)
  ∧ (s.st = .readingPayload → s.cnt.toNat < s.len.toNat ∧ s.len.toNat ≤ s.cfg.maxLen.val)
  ∧ (s.betweenLengthBytes ∨ s.countLine)

/-- The data invariant: the parameters are legal (R6), `dropped` fits its width (R18), the buffer is canonical and has no
cell beyond `MAX_LEN` (R30). -/
abbrev State.dataOk (s : State) : Prop :=
  s.cfg.wf ∧ s.dropped < 2 ^ s.cfg.dropW ∧ Memory.wf s.pbuf ∧ Memory.within s.pbuf s.cfg.maxLen.val

/-- The checksum invariant of R106: the accumulators are the checksum of the covered bytes taken so far. -/
abbrev State.checksumOk (s : State) : Prop :=
  (s.st = .readingHeader → (s.ckA, s.ckB) = fletcher8 ((headerBytes s).take s.idx.toNat))
  ∧ (s.st = .readingPayload ∨ s.st = .readingChecksum →
      (Memory.readRange s.pbuf 0 s.cnt.toNat).map (fun p => fletcher8 (headerBytes s ++ p))
        = some (s.ckA, s.ckB))

/-- The invariant every step keeps: R105, R106 and the form of the data. -/
abbrev State.sound (s : State) : Prop := s.structural ∧ s.dataOk ∧ s.checksumOk

/-- The state RESET leaves (R21), for a block with parameters `cfg` and pending inputs `input`. -/
def State.resetOf (cfg : Config) (input : List CycleInput) : State :=
  { State.reset with cfg := cfg, input := input }

/-- Reachable from the reset state of R21 by any sequence of `Tick` steps (spec/45_properties.md). -/
inductive Reachable : State → Prop where
  /-- The state RESET leaves, for any legal parameters. -/
  | reset (cfg : Config) (input : List CycleInput) (h : cfg.wf) : Reachable (State.resetOf cfg input)
  /-- One more cycle, on any inputs. -/
  | tick (s t : State) (c : CycleInput) (hs : Reachable s) (h : tick s c = .next t) : Reachable t

/-- The whole byte run of the frame at the moment `checksum_b = v` arrives (R109). -/
def completeRun (s : State) (payload : List Byte) (v : Byte) : List Byte :=
  [sync1, sync2] ++ headerBytes s ++ payload ++ [s.rxA, v]

/-- No `B5` immediately followed by `62` (R114). -/
def noSyncPair : List Byte → Bool
  | [] => true
  | [_] => true
  | x :: y :: bs => !(x == sync1 && y == sync2) && noSyncPair (y :: bs)

/-- `s` with bit `bit` of the byte at offset `off` inverted (R113). -/
def flipBit (s : List Byte) (off bit : Nat) : List Byte :=
  s.set off ((s.getD off 0) ^^^ (1#8 <<< bit))

/-- The two states agree in everything but the payload buffer. -/
abbrev State.agreeButPbuf (s t : State) : Prop := { s with pbuf := t.pbuf } = t

end Sys2Proof.Machine
end

