-- ==== Sys2Proof/Certificates/Slice0/Obligations.lean ====
section
/-! DEFINITION. The statements about the block. Rule numbers R<n> are spec/'s, U<n> of
spec/93_implementation_defined.md; "log <n>" is notes/assumptions/<n>.md. -/

open Sys2Proof Sys2Proof.Machine

/-! ## The operations, one by one: which cycle selects each, that it completes, and what it does -/

/-- R70. -/
def Obligations.S1HitHoldsCandidate : Prop :=
  ∀ s : State,
    (∀ c : CycleInput, decodeKey (selectorKey s c) = some .s1Hit ↔
      c.rst = false ∧ c.inValid = true ∧ s.st = .seekingSync1 ∧ c.inData = 0xB5#8)
    ∧ (s.st = .seekingSync1 → s.idx = 0 →
        exec .s1Hit s = .next { s with st := .seekingSync2, ev := .none })

/-- R71. -/
def Obligations.S1MissDropsOne : Prop :=
  ∀ (s : State) (v : Byte),
    (∀ c : CycleInput, decodeKey (selectorKey s c) = some (.s1Miss v) ↔
      c.rst = false ∧ c.inValid = true ∧ s.st = .seekingSync1 ∧ c.inData = v ∧ v ≠ 0xB5#8)
    ∧ (s.st = .seekingSync1 → s.idx = 0 → v ≠ 0xB5#8 →
        exec (.s1Miss v) s = .next { s with dropped := (s.dropped + 1) % 2 ^ s.cfg.dropW, ev := .none })

/-- R72. -/
def Obligations.S2HitOpensFrame : Prop :=
  ∀ s : State,
    (∀ c : CycleInput, decodeKey (selectorKey s c) = some .s2Hit ↔
      c.rst = false ∧ c.inValid = true ∧ s.st = .seekingSync2 ∧ c.inData = 0x62#8)
    ∧ (s.st = .seekingSync2 → s.idx = 0 →
        exec .s2Hit s = .next { s with st := .readingHeader, idx := 0, ckA := 0, ckB := 0, ev := .none })

/-- R73, with the choice of 90_conflicts.md C1. -/
def Obligations.S2ResyncDropsOlder : Prop :=
  ∀ s : State,
    (∀ c : CycleInput, decodeKey (selectorKey s c) = some .s2Resync ↔
      c.rst = false ∧ c.inValid = true ∧ s.st = .seekingSync2 ∧ c.inData = 0xB5#8)
    ∧ (s.st = .seekingSync2 → s.idx = 0 →
        exec .s2Resync s = .next { s with dropped := (s.dropped + 1) % 2 ^ s.cfg.dropW, ev := .none })

/-- R74. -/
def Obligations.S2MissDropsTwo : Prop :=
  ∀ (s : State) (v : Byte),
    (∀ c : CycleInput, decodeKey (selectorKey s c) = some (.s2Miss v) ↔
      c.rst = false ∧ c.inValid = true ∧ s.st = .seekingSync2 ∧ c.inData = v ∧ v ≠ 0x62#8 ∧ v ≠ 0xB5#8)
    ∧ (s.st = .seekingSync2 → s.idx = 0 → v ≠ 0x62#8 → v ≠ 0xB5#8 →
        exec (.s2Miss v) s = .next { s with
          st := .seekingSync1, dropped := (s.dropped + 2) % 2 ^ s.cfg.dropW, ev := .none })

/-- R80. -/
def Obligations.HClassTakesClass : Prop :=
  ∀ (s : State) (v : Byte),
    (∀ c : CycleInput, decodeKey (selectorKey s c) = some (.hClass v) ↔
      c.rst = false ∧ c.inValid = true ∧ s.st = .readingHeader ∧ s.idx = 0 ∧ c.inData = v)
    ∧ (s.st = .readingHeader → s.idx = 0 →
        exec (.hClass v) s = .next { s with
          cls := v
          ckA := BitVec.ofNat 8 ((s.ckA.toNat + v.toNat) % 256)
          ckB := BitVec.ofNat 8 ((s.ckB.toNat + (s.ckA.toNat + v.toNat) % 256) % 256)
          idx := 1, ev := .none })

/-- R81. -/
def Obligations.HIdTakesId : Prop :=
  ∀ (s : State) (v : Byte),
    (∀ c : CycleInput, decodeKey (selectorKey s c) = some (.hId v) ↔
      c.rst = false ∧ c.inValid = true ∧ s.st = .readingHeader ∧ s.idx = 1 ∧ c.inData = v)
    ∧ (s.st = .readingHeader → s.idx = 1 →
        exec (.hId v) s = .next { s with
          mid := v
          ckA := BitVec.ofNat 8 ((s.ckA.toNat + v.toNat) % 256)
          ckB := BitVec.ofNat 8 ((s.ckB.toNat + (s.ckA.toNat + v.toNat) % 256) % 256)
          idx := 2, ev := .none })

/-- R82. -/
def Obligations.HLenloTakesLowByte : Prop :=
  ∀ (s : State) (v : Byte),
    (∀ c : CycleInput, decodeKey (selectorKey s c) = some (.hLenlo v) ↔
      c.rst = false ∧ c.inValid = true ∧ s.st = .readingHeader ∧ s.idx = 2 ∧ c.inData = v)
    ∧ (s.st = .readingHeader → s.idx = 2 →
        exec (.hLenlo v) s = .next { s with
          len := BitVec.ofNat 16 v.toNat
          ckA := BitVec.ofNat 8 ((s.ckA.toNat + v.toNat) % 256)
          ckB := BitVec.ofNat 8 ((s.ckB.toNat + (s.ckA.toNat + v.toNat) % 256) % 256)
          idx := 3, ev := .none })

/-- R83: `L = len[7:0] + 256 * v`, the strict comparison with `MAX_LEN`, and the three continuations. -/
def Obligations.HLenhiChecksLength : Prop :=
  ∀ (s : State) (v : Byte),
    (∀ c : CycleInput, decodeKey (selectorKey s c) = some (.hLenhi v) ↔
      c.rst = false ∧ c.inValid = true ∧ s.st = .readingHeader ∧ s.idx = 3 ∧ c.inData = v)
    ∧ (s.st = .readingHeader → s.idx = 3 →
        exec (.hLenhi v) s = .next { s with
          len := BitVec.ofNat 16 (s.len.toNat % 256 + 256 * v.toNat)
          ckA := BitVec.ofNat 8 ((s.ckA.toNat + v.toNat) % 256)
          ckB := BitVec.ofNat 8 ((s.ckB.toNat + (s.ckA.toNat + v.toNat) % 256) % 256)
          idx := 0, cnt := 0
          st := if s.len.toNat % 256 + 256 * v.toNat > s.cfg.maxLen.val then .seekingSync1
                else if s.len.toNat % 256 + 256 * v.toNat = 0 then .readingChecksum
                else .readingPayload
          ev := if s.len.toNat % 256 + 256 * v.toNat > s.cfg.maxLen.val then .frameTooLarge else .none })

/-- R90. Every cell but `cnt` reads as before; every register the rule does not name keeps its value. -/
def Obligations.PByteStoresPayload : Prop :=
  ∀ (s : State) (v : Byte),
    (∀ c : CycleInput, decodeKey (selectorKey s c) = some (.pByte v) ↔
      c.rst = false ∧ c.inValid = true ∧ s.st = .readingPayload ∧ c.inData = v)
    ∧ (s.st = .readingPayload → s.idx = 0 → s.cnt.toNat < s.len.toNat → s.len.toNat ≤ s.cfg.maxLen.val →
        ∃ pbuf : Memory,
          exec (.pByte v) s = .next { s with
            pbuf := pbuf
            ckA := BitVec.ofNat 8 ((s.ckA.toNat + v.toNat) % 256)
            ckB := BitVec.ofNat 8 ((s.ckB.toNat + (s.ckA.toNat + v.toNat) % 256) % 256)
            cnt := BitVec.ofNat 16 (s.cnt.toNat + 1)
            st := if s.cnt.toNat + 1 = s.len.toNat then .readingChecksum else .readingPayload
            ev := .none }
          ∧ Memory.read pbuf s.cnt.toNat = some v
          ∧ ∀ a, a ≠ s.cnt.toNat → Memory.read pbuf a = Memory.read s.pbuf a)

/-- R91. -/
def Obligations.CAHoldsFirstByte : Prop :=
  ∀ (s : State) (v : Byte),
    (∀ c : CycleInput, decodeKey (selectorKey s c) = some (.cA v) ↔
      c.rst = false ∧ c.inValid = true ∧ s.st = .readingChecksum ∧ s.idx = 0 ∧ c.inData = v)
    ∧ (s.st = .readingChecksum → s.idx = 0 →
        exec (.cA v) s = .next { s with rxA := v, idx := 1, ev := .none })

/-- R92. -/
def Obligations.CBGivesVerdict : Prop :=
  ∀ (s : State) (v : Byte),
    (∀ c : CycleInput, decodeKey (selectorKey s c) = some (.cB v) ↔
      c.rst = false ∧ c.inValid = true ∧ s.st = .readingChecksum ∧ s.idx = 1 ∧ c.inData = v)
    ∧ (s.st = .readingChecksum → s.idx = 1 →
        exec (.cB v) s = .next { s with
          ev := if s.rxA = s.ckA ∧ v = s.ckB then .frameOk else .ckMismatch
          st := .seekingSync1, idx := 0 })

/-- R101. -/
def Obligations.IdleClearsEvent : Prop :=
  ∀ s : State,
    (∀ c : CycleInput, decodeKey (selectorKey s c) = some .idle ↔ c.rst = false ∧ c.inValid = false)
    ∧ exec .idle s = .next { s with ev := .none }

/-- R102; and holding `rst` repeats it with the same result (R140). -/
def Obligations.ResetRestoresRegisters : Prop :=
  ∀ s : State,
    (∀ c : CycleInput, decodeKey (selectorKey s c) = some .reset ↔ c.rst = true)
    ∧ exec .reset s = .next { s with
        st := .seekingSync1, idx := 0, cnt := 0, cls := 0, mid := 0, len := 0
        ckA := 0, ckB := 0, rxA := 0, dropped := 0, ev := .none }
    ∧ ∀ t : State, exec .reset s = .next t → exec .reset t = .next t

/-! ## Frames: what each shape of operation leaves alone -/

/-- The five search operations touch none of `cls`, `mid`, `len`, `cnt`, `rx_a`, `pbuf` (spec/41_sync_search.md);
only S2_HIT writes the accumulators; the two hits leave `dropped`. -/
def Obligations.SearchFrame : Prop :=
  ∀ (i : Instr) (s t : State),
    (i = .s1Hit ∨ (∃ v, i = .s1Miss v) ∨ i = .s2Hit ∨ i = .s2Resync ∨ ∃ v, i = .s2Miss v) →
    exec i s = .next t →
    t.cls = s.cls ∧ t.mid = s.mid ∧ t.len = s.len ∧ t.cnt = s.cnt ∧ t.rxA = s.rxA ∧ t.idx = s.idx
    ∧ t.cfg = s.cfg ∧ t.input = s.input
    ∧ (i ≠ .s2Hit → t.ckA = s.ckA ∧ t.ckB = s.ckB)
    ∧ (i = .s1Hit ∨ i = .s2Hit → t.dropped = s.dropped)
    ∧ ∀ a, Memory.read t.pbuf a = Memory.read s.pbuf a

/-- The four header operations touch none of `rx_a`, `dropped`, `pbuf` (spec/42_header.md), and of the descriptor only the
register each is for; only H_LENHI writes `cnt` and leaves READING_HEADER. -/
def Obligations.HeaderFrame : Prop :=
  ∀ (i : Instr) (v : Byte) (s t : State),
    (i = .hClass v ∨ i = .hId v ∨ i = .hLenlo v ∨ i = .hLenhi v) →
    exec i s = .next t →
    t.rxA = s.rxA ∧ t.dropped = s.dropped ∧ t.cfg = s.cfg ∧ t.input = s.input
    ∧ (i ≠ .hClass v → t.cls = s.cls) ∧ (i ≠ .hId v → t.mid = s.mid)
    ∧ (i = .hClass v ∨ i = .hId v → t.len = s.len)
    ∧ (i ≠ .hLenhi v → t.cnt = s.cnt ∧ t.st = s.st ∧ t.ev = .none)
    ∧ ∀ a, Memory.read t.pbuf a = Memory.read s.pbuf a

/-- C_A, C_B (spec/43_payload_checksum.md) and IDLE touch no descriptor register, accumulator, count or cell; of the other
registers C_A writes `rx_a` and `idx`, C_B `st` and `idx`, IDLE none. RESET leaves every cell (R102). -/
def Obligations.ChecksumAndSystemFrame : Prop :=
  ∀ (i : Instr) (s t : State), exec i s = .next t →
    ((∃ v, i = .cA v) ∨ (∃ v, i = .cB v) ∨ i = .idle →
      t.cls = s.cls ∧ t.mid = s.mid ∧ t.len = s.len ∧ t.cnt = s.cnt ∧ t.ckA = s.ckA ∧ t.ckB = s.ckB
      ∧ t.dropped = s.dropped)
    ∧ ((∃ v, i = .cB v) ∨ i = .idle → t.rxA = s.rxA)
    ∧ ((∃ v, i = .cA v) ∨ i = .idle → t.st = s.st)
    ∧ (i = .idle → t.idx = s.idx)
    ∧ ((∃ v, i = .cA v) ∨ (∃ v, i = .cB v) ∨ i = .idle ∨ i = .reset →
      t.cfg = s.cfg ∧ t.input = s.input ∧ ∀ a, Memory.read t.pbuf a = Memory.read s.pbuf a)

/-! ## Where the model stops -/

/-- The model's choice, log 8: an operation no cycle selects in `s` is refused there by name. -/
def Obligations.UnselectedOperationsRefused : Prop :=
  ∀ (i : Instr) (s : State), (∀ c : CycleInput, decodeKey (selectorKey s c) ≠ some i) →
    exec i s = .refused .notSelected

/-- The model's choice, log 7 and log 9, in the states U4 gives no meaning and at the addresses R31 says select nothing. -/
def Obligations.UndefinedStatesStop : Prop :=
  ∀ (s : State) (v : Byte),
    (s.st = .seekingSync1 → s.idx ≠ 0 →
      exec .s1Hit s = .refused .undefinedState
      ∧ (v ≠ 0xB5#8 → exec (.s1Miss v) s = .refused .undefinedState))
    ∧ (s.st = .seekingSync2 → s.idx ≠ 0 →
      exec .s2Hit s = .refused .undefinedState ∧ exec .s2Resync s = .refused .undefinedState
      ∧ (v ≠ 0x62#8 → v ≠ 0xB5#8 → exec (.s2Miss v) s = .refused .undefinedState))
    ∧ (s.st = .readingPayload → s.idx ≠ 0 ∨ s.len.toNat ≤ s.cnt.toNat →
      exec (.pByte v) s = .refused .undefinedState)
    ∧ (s.st = .readingPayload → s.idx = 0 → s.cnt.toNat < s.len.toNat → s.cfg.maxLen.val ≤ s.cnt.toNat →
      exec (.pByte v) s = .fault .pbufAddress)
    ∧ (s.st = .readingChecksum → 2 ≤ s.idx.toNat → feed s v = .refused .reservedKey)

/-- The model's choice, log 2: with no cycle input pending the run has ended (R144). -/
def Obligations.StepStopsAtEndOfInput : Prop :=
  ∀ s : State, s.input = [] → step s = .refused .endOfInput

/-! ## The selector -/

/-- A step runs the operation the key selects, on the state with that cycle's inputs taken off the pending ones; the
operation is a well-formed one. -/
def Obligations.StepRunsDecodedInstr : Prop :=
  ∀ (s : State) (c : CycleInput) (rest : List CycleInput) (i : Instr),
    s.input = c :: rest → decodeKey (selectorKey s c) = some i →
    i.wf = true ∧ step s = exec i { s with input := rest }

/-- A few keys written out bit by bit from R50 and R52. -/
def Obligations.SampleKeysDecode : Prop :=
  decodeKey 0b100000000000000#15 = some .reset
  ∧ decodeKey 0b000100000000111#15 = some .idle
  ∧ decodeKey 0b010000010110101#15 = some .s1Hit
  ∧ decodeKey 0b010010010110101#15 = some .s2Resync
  ∧ decodeKey 0b010101100000001#15 = some (.hLenhi 0x01)
  ∧ decodeKey 0b010110010110101#15 = some (.pByte 0xB5)
  ∧ decodeKey 0b011000110100101#15 = some (.cB 0xA5)
  ∧ decodeKey 0b011001000000000#15 = none
  ∧ decodeTableWord 16 0x2413 = some (.s2Miss 0x13)

/-- Decoding the encoding of a well-formed operation gives it back, as a key and as a table word. -/
def Obligations.DecodeEncodeRoundTrip : Prop :=
  ∀ i : Instr, i.wf = true →
    decodeKey (encode i) = some i ∧ decodeTableWord 16 (encode i).toNat = some i

/-- The other direction: what a key decodes to is well-formed and its encoding agrees with the key on every bit the row
fixes or the operation uses. -/
def Obligations.DecodedKeysReencode : Prop :=
  ∀ (k : Key) (i : Instr), decodeKey k = some i →
    i.wf = true ∧ encode i &&& usedMask i = k &&& usedMask i

/-- R53: the keys that select no row, exactly; none arises in a reachable state, whatever the inputs. -/
def Obligations.ReservedKeysExactly : Prop :=
  (∀ k : Key, decodeKey k = none ↔
    k.rst = false ∧ k.inValid = true ∧ (5 ≤ k.stCode.toNat ∨ k.stCode = 4 ∧ 2 ≤ k.idx.toNat))
  ∧ ∀ (s : State) (c : CycleInput), Reachable s → decodeKey (selectorKey s c) ≠ none

/-- The table of R52 and the case distinction of R100 select the same operation in every state, on every input. -/
def Obligations.TableAgreesWithDispatch : Prop :=
  ∀ (s : State) (c : CycleInput), decodeKey (selectorKey s c) = dispatchByState s c

/-- R50: the order of the rows matters only for S1_HIT before S1_MISS and S2_HIT, S2_RESYNC before S2_MISS. -/
def Obligations.RowsOverlapOnlyInSearch : Prop :=
  ∀ (k : Key) (i j : Nat) (ri rj : OpRow), i < j → opTable[i]? = some ri → opTable[j]? = some rj →
    ri.selects k = true → rj.selects k = true →
    (ri.mnemonic, rj.mnemonic) ∈ [("S1_HIT", "S1_MISS"), ("S2_HIT", "S2_MISS"), ("S2_RESYNC", "S2_MISS")]

/-! ## The ports -/

/-- R34: a written cell of the buffer is what the port shows, whichever read it is; the byte P_BYTE stores is visible from
the next cycle, and every other written cell below `MAX_LEN` shows as before. The last clause also covers cells never written
and addresses at or above `MAX_LEN`: there R34, U2 and U3 fix no value, and that the same read shows the same free byte before
and after is the model's choice (log 4). -/
def Obligations.ReadPortShowsPbuf : Prop :=
  (∀ (s : State) (nth : Nat) (a : Word16) (b : Byte),
    a.toNat < s.cfg.maxLen.val → Memory.read s.pbuf a.toNat = some b → readPort s nth a = b)
  ∧ ∀ (s t : State) (nth : Nat) (v : Byte), exec (.pByte v) s = .next t →
      readPort t nth s.cnt = v ∧ ∀ a, a ≠ s.cnt → readPort t nth a = readPort s nth a

/-- R20 with the codes of R11 and R17: what the ports show, and that no output depends on the inputs. -/
def Obligations.OutputsShowRegisters : Prop :=
  ∀ (s : State) (nth : Nat) (a : Word16),
    (outputs s nth a).state.toNat = (match s.st with
      | .seekingSync1 => 0 | .seekingSync2 => 1 | .readingHeader => 2 | .readingPayload => 3 | .readingChecksum => 4)
    ∧ (outputs s nth a).ev.toNat = (match s.ev with
      | .none => 0 | .frameOk => 1 | .ckMismatch => 2 | .frameTooLarge => 3)
    ∧ (outputs s nth a).clsO = s.cls ∧ (outputs s nth a).idO = s.mid ∧ (outputs s nth a).lenO = s.len
    ∧ (s.dropped < 2 ^ s.cfg.dropW → (outputs s nth a).droppedO.toNat = s.dropped)
    ∧ (outputs s nth a).plRdata = readPort s nth a
    ∧ ∀ input : List CycleInput, outputs { s with input := input } nth a = outputs s nth a

/-! ## Invariants -/

/-- The state RESET leaves is sound, for any legal parameters; `State.reset` is one of them. -/
def Obligations.ResetIsSound : Prop :=
  (∀ (cfg : Config) (input : List CycleInput), cfg.wf → (State.resetOf cfg input).sound)
  ∧ State.reset.sound ∧ ∃ cfg : Config, cfg.wf ∧ State.reset = State.resetOf cfg []

/-- Every step keeps the structural invariant of R105 (its last line as log 6 has it), the canonical form and bound of the
buffer, the width of `dropped` and the legality of the parameters. -/
def Obligations.StepKeepsStructure : Prop :=
  ∀ s t : State, s.structural → s.dataOk → step s = .next t → t.structural ∧ t.dataOk

/-- Every step keeps the checksum invariant of R106. -/
def Obligations.StepKeepsChecksum : Prop :=
  ∀ s t : State, s.sound → step s = .next t → t.checksumOk

/-- R100: the cycle step is total, whatever the inputs, in every state with the structural invariant; with R33, no address
fault. -/
def Obligations.StructuralStatesNeverStop : Prop :=
  ∀ (s : State) (c : CycleInput), s.structural → ∃ t : State, tick s c = .next t

/-- Every reachable state is sound, and every input takes it to a next state. -/
def Obligations.ReachableStatesAreSound : Prop :=
  ∀ s : State, Reachable s → s.sound ∧ ∀ c : CycleInput, ∃ t : State, tick s c = .next t

/-- R105's last line as written: `cnt <= len or len > MAX_LEN` in every reachable state. It fails in READING_HEADER with
`idx` 3: R82 has written `len` and R83 has not yet cleared `cnt` (program P2 row 21; log 6). -/
def Obligations.CountNeverExceedsLength : Prop :=
  ∀ s : State, Reachable s → s.countLine

/-- What R105 gives as the reason for its last line, and all of the line that R82 and R83 leave: `cnt` is never above
`MAX_LEN`; outside the states between the two length bytes it is never above `len` (log 6); P_BYTE alone raises it, by one and
up to `len`; every H_LENHI leaves it 0, the one that aborts too; only H_LENHI and RESET lower it. -/
def Obligations.CountRisesOnlyToLength : Prop :=
  (∀ s : State, Reachable s →
    s.cnt.toNat ≤ s.cfg.maxLen.val ∧ (¬ s.betweenLengthBytes → s.cnt.toNat ≤ s.len.toNat))
  ∧ ∀ (s t : State) (c : CycleInput), s.structural → tick s c = .next t →
    (s.cnt.toNat < t.cnt.toNat →
      decodeKey (selectorKey s c) = some (.pByte c.inData) ∧ t.cnt.toNat = s.cnt.toNat + 1
      ∧ t.cnt.toNat ≤ t.len.toNat ∧ t.len = s.len)
    ∧ (decodeKey (selectorKey s c) = some (.hLenhi c.inData) → t.cnt = 0
      ∧ (t.ev = .frameTooLarge ↔ t.cfg.maxLen.val < t.len.toNat))
    ∧ (t.cnt.toNat < s.cnt.toNat →
      decodeKey (selectorKey s c) = some (.hLenhi c.inData) ∨ decodeKey (selectorKey s c) = some .reset)

/-- R13: an accepted byte advances the frame position by one or sets it back to 0 or 1, and it never exceeds
`MAX_LEN + 7`. -/
def Obligations.FramePositionAdvances : Prop :=
  ∀ (s : State) (v : Byte), s.structural →
    framePos s ≤ s.cfg.maxLen.val + 7
    ∧ ∃ t : State, feed s v = .next t
      ∧ (framePos t = framePos s + 1 ∨ framePos t = 0 ∨ framePos t = 1)

/-- R6: no step changes the parameters; and a step takes exactly one cycle's inputs off the pending ones. -/
def Obligations.ParametersNeverChange : Prop :=
  ∀ s t : State, step s = .next t → t.cfg = s.cfg ∧ ∃ c : CycleInput, s.input = c :: t.input

/-! ## Events -/

/-- R110, R125: an event is signalled only by H_LENHI or C_B and leaves the block in SEEKING_SYNC1; after that no event
comes in the next five bytes. -/
def Obligations.EventsEndFramedRuns : Prop :=
  (∀ (s t : State) (c : CycleInput), tick s c = .next t → t.ev ≠ .none →
    (decodeKey (selectorKey s c) = some (.hLenhi c.inData) ∧ t.ev = .frameTooLarge
      ∨ decodeKey (selectorKey s c) = some (.cB c.inData) ∧ (t.ev = .frameOk ∨ t.ev = .ckMismatch))
    ∧ t.st = .seekingSync1 ∧ t.idx = 0)
  ∧ ∀ (s : State) (bs : List Byte), s.structural → s.st = .seekingSync1 → bs.length ≤ 5 →
      (∃ t, feedAll bs s = .next t) ∧ eventTrace (bs.map .byte) s = []

/-- R126: what the registers hold at each event, and the frame FRAME_OK denotes: its class, id and payload are `cls`, `mid`
and the first `len` cells of the buffer; no other event denotes one. -/
def Obligations.EventRecordsDescriptor : Prop :=
  ∀ (s t : State) (c : CycleInput), s.sound → tick s c = .next t →
    (t.ev ≠ .none → t.cls = s.cls ∧ t.mid = s.mid)
    ∧ (t.ev = .frameOk ∨ t.ev = .ckMismatch →
      t.cnt = t.len ∧ t.len.toNat ≤ t.cfg.maxLen.val
      ∧ (Memory.readRange t.pbuf 0 t.len.toNat).map (fun p => fletcher8 (headerBytes t ++ p)) = some (t.ckA, t.ckB))
    ∧ (t.ev = .frameOk → t.rxA = t.ckA ∧ c.inData = t.ckB
      ∧ ∃ f : Frame, t.deliveredFrame = some f ∧ f.cls = t.cls ∧ f.mid = t.mid ∧ f.payload.length = t.len.toNat
        ∧ Memory.readRange t.pbuf 0 t.len.toNat = some f.payload)
    ∧ (t.ev ≠ .frameOk → t.deliveredFrame = none)
    ∧ (t.ev = .frameTooLarge →
      t.cfg.maxLen.val < t.len.toNat ∧ t.cnt = 0 ∧ fletcher8 (headerBytes t) = (t.ckA, t.ckB)
      ∧ t.pbuf = s.pbuf ∧ t.rxA = s.rxA)

/-- R109: the verdict of C_B is that of `decode` on the complete run, the frame FRAME_OK denotes (R126) is the one `decode`
answers, and of `decode`'s errors only `ChecksumMismatch`
can be the one. -/
def Obligations.StreamingVerdictEqualsDecode : Prop :=
  ∀ (s : State) (v : Byte), s.sound → s.st = .readingChecksum → s.idx = 1 →
    ∃ (t : State) (payload : List Byte) (f : Frame),
      Memory.readRange s.pbuf 0 s.len.toNat = some payload
      ∧ f.cls = s.cls ∧ f.mid = s.mid ∧ f.payload = payload
      ∧ (completeRun s payload v).length = s.len.toNat + 8
      ∧ exec (.cB v) s = .next t
      ∧ (t.ev = .frameOk ↔ decodeFrame (completeRun s payload v) = .ok f)
      ∧ (t.ev = .frameOk ↔ t.deliveredFrame = some f)
      ∧ (t.ev = .ckMismatch ↔ decodeFrame (completeRun s payload v) = .error .checksumMismatch)
      ∧ decodeFrame (completeRun s payload v) ≠ .error .syncMismatch
      ∧ decodeFrame (completeRun s payload v) ≠ .error .lengthExceedsBuffer

/-- R119: FRAME_OK is signalled only when the received checksum bytes equal `fletcher8` of the covered bytes as received;
and two different runs of covered bytes can have one checksum. -/
def Obligations.FrameOkProvesChecksum : Prop :=
  (∀ (s t : State) (c : CycleInput), s.sound → tick s c = .next t → t.ev = .frameOk →
    ∃ payload : List Byte, Memory.readRange t.pbuf 0 t.len.toNat = some payload
      ∧ fletcher8 (headerBytes t ++ payload) = (t.rxA, c.inData))
  ∧ fletcher8 [0x01, 0x07, 0x03, 0x00, 0x10, 0x20, 0x30] = (0x6B, 0xE0)
  ∧ fletcher8 [0x01, 0x07, 0x03, 0x00, 0x11, 0x1E, 0x31] = (0x6B, 0xE0)

/-! ## Runs -/

/-- The host's run of `k` steps is the fold of the cycle step over the first `k` pending inputs (R8). -/
def Obligations.HostRunIsFoldOfTick : Prop :=
  ∀ (cs rest : List CycleInput) (s : State),
    Host.Core.run Sys2Proof.core cs.length { s with input := cs ++ rest } = runCycles cs { s with input := rest }

/-- R107: taking the idle cycles out of a run changes neither its event trace nor any field of its last state but `ev`. -/
def Obligations.IdleCyclesAreInvisible : Prop :=
  ∀ (s : State) (cs : List CycleInput), s.structural →
    eventTrace cs s = eventTrace (cs.filter fun c => c.rst || c.inValid) s
    ∧ ∃ t u : State, runCycles cs s = .next t
      ∧ runCycles (cs.filter fun c => c.rst || c.inValid) s = .next u
      ∧ { t with ev := .none } = { u with ev := .none }

/-- R108: over a run with no reset that starts in SEEKING_SYNC1, the accepted bytes are the discarded ones, those of
finished framed runs and those of the run in progress; `dropped` grows by the discarded ones modulo `2^DROP_W`. -/
def Obligations.ByteAccounting : Prop :=
  ∀ (s : State) (cs : List CycleInput), s.structural → s.dataOk → s.st = .seekingSync1 →
    (∀ c ∈ cs, c.rst = false) →
    ∃ t : State, runCycles cs s = .next t
      ∧ (cs.filter fun c => c.inValid).length
        = discardedTotal (opTrace cs s) + finishedTotal (opTrace cs s) + framePos t
      ∧ t.dropped = (s.dropped + discardedTotal (opTrace cs s)) % 2 ^ s.cfg.dropW

/-- R110: from any state with the structural invariant, `MAX_LEN + 6` accepted bytes bring the block back to the search at
least once. -/
def Obligations.SearchIsReachedAgain : Prop :=
  ∀ (s : State) (bs : List Byte), s.structural → bs.length = s.cfg.maxLen.val + 6 →
    ∃ (k : Nat) (t : State), k ≤ bs.length ∧ feedAll (bs.take k) s = .next t ∧ t.searching

/-- R75: on bytes that do not hold `B5 62` the search signals nothing and drops every byte, but holds a last `B5`; the first
`B5 62` after them is recognised. -/
def Obligations.SearchIsStringMatcher : Prop :=
  ∀ (s : State) (g : List Byte), s.structural → s.dataOk → s.st = .seekingSync1 → noSyncPair g = true →
    (∃ t : State, feedAll g s = .next t ∧ eventTrace (g.map .byte) s = []
      ∧ (g.getLast? = some sync1 →
          t.st = .seekingSync2 ∧ t.dropped = (s.dropped + (g.length - 1)) % 2 ^ s.cfg.dropW)
      ∧ (g.getLast? ≠ some sync1 →
          t.st = .seekingSync1 ∧ t.dropped = (s.dropped + g.length) % 2 ^ s.cfg.dropW))
    ∧ ∃ u : State, feedAll (g ++ [sync1, sync2]) s = .next u ∧ u.st = .readingHeader
      ∧ u.dropped = (s.dropped + g.length) % 2 ^ s.cfg.dropW

/-- R112: an encoded frame fed in the search gives exactly one event, FRAME_OK on its last byte, with its descriptor and
payload, and delivers that one frame; an oversize one gives FRAME_TOO_LARGE on its sixth byte, delivers none, and the block is searching again. -/
def Obligations.StreamRoundTrip : Prop :=
  ∀ (s : State) (c i : Byte) (p bs : List Byte), s.structural → s.dataOk → s.searching →
    encodeFrame c i p = .ok bs →
    (p.length ≤ s.cfg.maxLen.val →
      ∃ t : State, feedAll bs s = .next t ∧ eventTrace (bs.map .byte) s = [.frameOk] ∧ t.ev = .frameOk
        ∧ t.st = .seekingSync1 ∧ t.cls = c ∧ t.mid = i ∧ t.len.toNat = p.length ∧ t.cnt.toNat = p.length
        ∧ Memory.readRange t.pbuf 0 p.length = some p
        ∧ (∃ f : Frame, f.cls = c ∧ f.mid = i ∧ f.payload = p ∧ frameTrace (bs.map .byte) s = [f])
        ∧ t.dropped = (s.dropped + if s.st = .seekingSync1 then 0 else 1) % 2 ^ s.cfg.dropW)
    ∧ (s.cfg.maxLen.val < p.length →
      ∃ t : State, feedAll (bs.take 6) s = .next t ∧ eventTrace ((bs.take 6).map .byte) s = [.frameTooLarge]
        ∧ frameTrace ((bs.take 6).map .byte) s = []
        ∧ t.ev = .frameTooLarge ∧ t.st = .seekingSync1 ∧ t.len.toNat = p.length)

/-- R114: garbage, frame, garbage, frame from the reset state gives two FRAME_OK, each on the last byte of its frame with
that frame's descriptor and payload, delivers exactly the two frames, and `dropped` counts the garbage. -/
def Obligations.Resynchronisation : Prop :=
  ∀ (cfg : Config) (input : List CycleInput) (g₁ g₂ f₁ f₂ p₁ p₂ : List Byte) (c₁ i₁ c₂ i₂ : Byte),
    cfg.wf → noSyncPair g₁ = true → noSyncPair g₂ = true →
    encodeFrame c₁ i₁ p₁ = .ok f₁ → encodeFrame c₂ i₂ p₂ = .ok f₂ →
    p₁.length ≤ cfg.maxLen.val → p₂.length ≤ cfg.maxLen.val →
    ∃ t u : State,
      feedAll (g₁ ++ f₁) (State.resetOf cfg input) = .next t
      ∧ feedAll (g₁ ++ f₁ ++ g₂ ++ f₂) (State.resetOf cfg input) = .next u
      ∧ eventTrace ((g₁ ++ f₁ ++ g₂ ++ f₂).map .byte) (State.resetOf cfg input) = [.frameOk, .frameOk]
      ∧ t.ev = .frameOk ∧ t.cls = c₁ ∧ t.mid = i₁ ∧ t.len.toNat = p₁.length
      ∧ Memory.readRange t.pbuf 0 p₁.length = some p₁
      ∧ u.ev = .frameOk ∧ u.cls = c₂ ∧ u.mid = i₂ ∧ u.len.toNat = p₂.length
      ∧ Memory.readRange u.pbuf 0 p₂.length = some p₂
      ∧ (∃ a b : Frame, a.cls = c₁ ∧ a.mid = i₁ ∧ a.payload = p₁ ∧ b.cls = c₂ ∧ b.mid = i₂ ∧ b.payload = p₂
        ∧ frameTrace ((g₁ ++ f₁ ++ g₂ ++ f₂).map .byte) (State.resetOf cfg input) = [a, b])
      ∧ u.dropped = (g₁.length + g₂.length) % 2 ^ cfg.dropW

/-- R116: after a proper, nonempty part of a frame's first bytes, however many idle cycles stand between them, no event has
been signalled and the block is not back in SEEKING_SYNC1. -/
def Obligations.PartialFramesAreHeld : Prop :=
  ∀ (s : State) (c i : Byte) (p bs : List Byte) (k : Nat) (cs : List CycleInput),
    s.structural → s.st = .seekingSync1 → encodeFrame c i p = .ok bs → p.length ≤ s.cfg.maxLen.val →
    0 < k → k < bs.length → (∀ x ∈ cs, x.rst = false) →
    (cs.filter fun x => x.inValid).map (fun x => x.inData) = bs.take k →
    ∃ t : State, runCycles cs s = .next t ∧ eventTrace cs s = [] ∧ t.st ≠ .seekingSync1

/-- R117: the security-ID poll, through `encode`, through `decode`, and through the block from reset. -/
def Obligations.SecurityPollIsAccepted : Prop :=
  encodePoll 0x27 0x03 = .ok [0xB5, 0x62, 0x27, 0x03, 0x00, 0x00, 0x2A, 0xA5]
  ∧ decodeFrame [0xB5, 0x62, 0x27, 0x03, 0x00, 0x00, 0x2A, 0xA5] = .ok ⟨0x27, 0x03, [], Nat.zero_le _⟩
  ∧ ∀ (cfg : Config) (input : List CycleInput), ∃ t : State,
      feedAll [0xB5, 0x62, 0x27, 0x03, 0x00, 0x00, 0x2A, 0xA5] (State.resetOf cfg input) = .next t
      ∧ eventTrace ([0xB5, 0x62, 0x27, 0x03, 0x00, 0x00, 0x2A, 0xA5].map .byte) (State.resetOf cfg input) = [.frameOk]
      ∧ t.ev = .frameOk ∧ t.cls = 0x27 ∧ t.mid = 0x03 ∧ t.len = 0 ∧ t.dropped = 0

/-- R118, as far as it concerns the block: after FRAME_OK each cell holds its payload byte, and the same frame fed twice
gives twice the same event, descriptor and payload. -/
def Obligations.SameFrameTwiceSameResult : Prop :=
  ∀ (s : State) (c i : Byte) (p bs : List Byte), s.structural → s.dataOk → s.st = .seekingSync1 →
    encodeFrame c i p = .ok bs → p.length ≤ s.cfg.maxLen.val →
    ∃ t u : State, feedAll bs s = .next t ∧ feedAll bs t = .next u
      ∧ t.ev = .frameOk ∧ u.ev = .frameOk
      ∧ t.cls = c ∧ u.cls = c ∧ t.mid = i ∧ u.mid = i ∧ t.len = u.len
      ∧ ∀ (o : Nat) (h : o < p.length),
          Memory.read t.pbuf o = some (p[o]'h) ∧ Memory.read u.pbuf o = some (p[o]'h)

/-- R145: the bytes for which each register keeps its value after a framed run has ended. -/
def Obligations.StableWindows : Prop :=
  ∀ (s : State) (bs : List Byte), s.structural → s.st = .seekingSync1 →
    ∃ t : State, feedAll bs s = .next t
      ∧ (bs.length ≤ 1 → t.ckA = s.ckA ∧ t.ckB = s.ckB)
      ∧ (bs.length ≤ 2 → t.cls = s.cls)
      ∧ (bs.length ≤ 3 → t.mid = s.mid)
      ∧ (bs.length ≤ 4 → t.len = s.len)
      ∧ (bs.length ≤ 5 → t.cnt = s.cnt)
      ∧ (bs.length ≤ 6 → t.rxA = s.rxA)
      ∧ ∀ k : Nat, bs.length ≤ 6 + k → Memory.read t.pbuf k = Memory.read s.pbuf k

/-! ## Noninterference -/

/-- U2: what the buffer holds never influences a register or an event. -/
def Obligations.PbufNeverInfluencesRegisters : Prop :=
  ∀ (s : State) (pbuf : Memory) (cs : List CycleInput), s.structural →
    eventTrace cs { s with pbuf := pbuf } = eventTrace cs s
    ∧ ∃ t u : State, runCycles cs s = .next t ∧ runCycles cs { s with pbuf := pbuf } = .next u
      ∧ t.agreeButPbuf u

/-- R131: nothing carries over from earlier runs into the verdicts of later ones: from SEEKING_SYNC1 the event trace
depends on the inputs and `MAX_LEN` alone. -/
def Obligations.VerdictsIgnoreHistory : Prop :=
  ∀ (s₁ s₂ : State) (cs : List CycleInput), s₁.structural → s₂.structural →
    s₁.st = .seekingSync1 → s₂.st = .seekingSync1 → s₁.cfg.maxLen = s₂.cfg.maxLen →
    eventTrace cs s₁ = eventTrace cs s₂

/-! ## The reference functions -/

/-- R60, closed form: `a` is the sum of the bytes, `b` the sum of `(n - i) * s[i]`, both modulo 256. -/
def Obligations.FletcherClosedForm : Prop :=
  ∀ s : List Byte,
    (fletcher8 s).1.toNat = (s.map fun v => v.toNat).sum % 256
    ∧ (fletcher8 s).2.toNat = (s.zipIdx.map fun vi => (s.length - vi.2) * vi.1.toNat).sum % 256

/-- R61, R45: `encode` fails exactly on a payload over 65535 bytes; else it lays the frame out as the wire format says. -/
def Obligations.EncodeLaysOutFrame : Prop :=
  ∀ (c i : Byte) (p : List Byte),
    (65535 < p.length → encodeFrame c i p = .error .payloadTooLarge)
    ∧ (p.length ≤ 65535 → ∃ bs : List Byte, encodeFrame c i p = .ok bs ∧ bs.length = p.length + 8
      ∧ bs[0]? = some 0xB5 ∧ bs[1]? = some 0x62 ∧ bs[2]? = some c ∧ bs[3]? = some i
      ∧ runLength bs = p.length
      ∧ (∀ o, o < p.length → bs[6 + o]? = p[o]?)
      ∧ bs[6 + p.length]? = some (fletcher8 (sliceBytes bs 2 (p.length + 4))).1
      ∧ bs[7 + p.length]? = some (fletcher8 (sliceBytes bs 2 (p.length + 4))).2)

/-- R111. -/
def Obligations.CodecRoundTrip : Prop :=
  ∀ (c i : Byte) (p : List Byte) (h : p.length ≤ 65535),
    ∃ bs : List Byte, encodeFrame c i p = .ok bs ∧ decodeFrame bs = .ok ⟨c, i, p, h⟩

/-- R62: `decode` accepts exactly the byte runs that begin with the encoding of the frame it answers. -/
def Obligations.DecodeAcceptsExactlyFrames : Prop :=
  ∀ (s : List Byte) (f : Frame),
    decodeFrame s = .ok f ↔ ∃ bs tail : List Byte, encodeFrame f.cls f.mid f.payload = .ok bs ∧ s = bs ++ tail

/-- R113, field by field; a flip that lowers the length is reported in general but not always (vector V23). -/
def Obligations.ChecksumSensitivity : Prop :=
  (∀ (c i : Byte) (p bs : List Byte) (off bit : Nat),
    encodeFrame c i p = .ok bs → off < bs.length → bit < 8 →
    (off < 2 → decodeFrame (flipBit bs off bit) = .error .syncMismatch)
    ∧ (off = 2 ∨ off = 3 ∨ 6 ≤ off → decodeFrame (flipBit bs off bit) = .error .checksumMismatch)
    ∧ (off = 4 ∨ off = 5 → runLength bs < runLength (flipBit bs off bit) →
        decodeFrame (flipBit bs off bit) = .error .lengthExceedsBuffer)
    ∧ (off = 4 ∨ off = 5 → runLength (flipBit bs off bit) < runLength bs →
        decodeFrame (flipBit bs off bit) = .error .checksumMismatch
        ∨ ∃ f : Frame, decodeFrame (flipBit bs off bit) = .ok f ∧ f.payload.length < p.length))
  ∧ encodeFrame 0x27 0x03 [0x2A, 0xA5] = .ok [0xB5, 0x62, 0x27, 0x03, 0x02, 0x00, 0x2A, 0xA5, 0xFB, 0xFA]
  ∧ decodeFrame (flipBit [0xB5, 0x62, 0x27, 0x03, 0x02, 0x00, 0x2A, 0xA5, 0xFB, 0xFA] 4 1) = .ok ⟨0x27, 0x03, [], Nat.zero_le _⟩
end

