-- ==== Sys2Proof/Laws/Memory.lean ====
section
/-! SUPPORT. What the payload buffer's read and write do. -/

namespace Sys2Proof.Machine

@[simp] theorem Memory.read_nil (k : Nat) : Memory.read [] k = none := rfl

theorem Memory.read_eq_none_of_lt {m : Memory} {k : Nat} (h : ∀ c ∈ m, k < c.1) : Memory.read m k = none := by
  induction m with
  | nil => rfl
  | cons c m ih =>
    have hc := h c (by simp)
    simp only [Memory.read, if_neg (Nat.ne_of_gt hc)]
    exact ih fun d hd => h d (by simp [hd])

/-- A read of the cell just written gives the byte written. -/
@[simp] theorem Memory.read_write_same (m : Memory) (k : Nat) (v : Byte) :
    Memory.read (Memory.write m k v) k = some v := by
  induction m with
  | nil => simp [Memory.write, Memory.read]
  | cons c m ih =>
    obtain ⟨a, b⟩ := c
    simp only [Memory.write]
    split
    · simp [Memory.read]
    · split
      · simp [Memory.read]
      · rename_i h; simp [Memory.read, Ne.symm h, ih]

/-- A write leaves every other cell alone. -/
theorem Memory.read_write_other (m : Memory) {k j : Nat} (v : Byte) (h : j ≠ k) :
    Memory.read (Memory.write m k v) j = Memory.read m j := by
  induction m with
  | nil => simp [Memory.write, Memory.read, Ne.symm h]
  | cons c m ih =>
    obtain ⟨a, b⟩ := c
    simp only [Memory.write]
    split
    · simp [Memory.read, Ne.symm h]
    · split
      · rename_i hk; subst hk; simp [Memory.read, Ne.symm h]
      · simp [Memory.read, ih]

/-- A cell listed after a write is the cell written or was listed before. -/
theorem Memory.mem_write {m : Memory} {k : Nat} {v : Byte} {c : Host.Cell} (h : c ∈ Memory.write m k v) :
    c = (k, v) ∨ c ∈ m := by
  induction m with
  | nil => simpa [Memory.write] using h
  | cons d m ih =>
    obtain ⟨a, b⟩ := d
    simp only [Memory.write] at h
    split at h
    · simpa using h
    · split at h
      · rcases List.mem_cons.1 h with h | h
        · exact .inl h
        · exact .inr (by simp [h])
      · rcases List.mem_cons.1 h with h | h
        · exact .inr (by simp [h])
        · exact (ih h).imp id fun h => by simp [h]

/-- A write keeps the canonical form. -/
theorem Memory.write_wf {m : Memory} (k : Nat) (v : Byte) (h : Memory.wf m) : Memory.wf (Memory.write m k v) := by
  induction m with
  | nil => simp [Memory.write, Memory.wf]
  | cons c m ih =>
    obtain ⟨a, b⟩ := c
    obtain ⟨ha, hm⟩ := List.pairwise_cons.1 h
    simp only [Memory.write]
    split
    · rename_i hk
      refine List.pairwise_cons.2 ⟨fun d hd => ?_, h⟩
      rcases List.mem_cons.1 hd with rfl | hd
      · exact hk
      · exact Nat.lt_trans hk (ha d hd)
    · split
      · rename_i hk; subst hk
        exact List.pairwise_cons.2 ⟨ha, hm⟩
      · refine List.pairwise_cons.2 ⟨fun d hd => ?_, ih hm⟩
        rcases Memory.mem_write hd with rfl | hd
        · show a < k; omega
        · exact ha d hd

/-- A write inside the buffer keeps the buffer inside its bound. -/
theorem Memory.write_within {m : Memory} {n k : Nat} (v : Byte) (h : Memory.within m n) (hk : k < n) :
    Memory.within (Memory.write m k v) n := by
  intro c hc
  rcases Memory.mem_write hc with rfl | hc
  · exact hk
  · exact h c hc

@[simp] theorem Memory.readRange_zero (m : Memory) (a : Nat) : Memory.readRange m a 0 = some [] := rfl

/-- A range reads the same in two buffers that agree on its cells. -/
theorem Memory.readRange_congr {m m' : Memory} {a n : Nat}
    (h : ∀ j, a ≤ j → j < a + n → Memory.read m j = Memory.read m' j) :
    Memory.readRange m a n = Memory.readRange m' a n := by
  induction n generalizing a with
  | zero => rfl
  | succ n ih =>
    simp only [Memory.readRange, h a (Nat.le_refl a) (by omega)]
    rw [ih fun j h₁ h₂ => h j (by omega) (by omega)]

/-- Reading one cell more appends it. -/
theorem Memory.readRange_succ {m : Memory} {a n : Nat} {bs : List Byte} {b : Byte}
    (h : Memory.readRange m a n = some bs) (hb : Memory.read m (a + n) = some b) :
    Memory.readRange m a (n + 1) = some (bs ++ [b]) := by
  induction n generalizing a bs with
  | zero =>
    obtain rfl : [] = bs := by simpa using h
    have hb' : Memory.read m a = some b := hb
    simp [Memory.readRange, hb']
  | succ n ih =>
    simp only [Memory.readRange] at h
    cases h₁ : Memory.read m a with
    | none => simp [h₁] at h
    | some x =>
      cases h₂ : Memory.readRange m (a + 1) n with
      | none => simp [h₁, h₂] at h
      | some xs =>
        obtain rfl : x :: xs = bs := by simpa [h₁, h₂] using h
        have := ih h₂ (by rwa [show a + 1 + n = a + (n + 1) by omega])
        rw [Memory.readRange, h₁, this]
        rfl

/-- Storing the next cell of a range that has been read appends the byte stored. -/
theorem Memory.readRange_write {m : Memory} {n : Nat} {bs : List Byte} (v : Byte)
    (h : Memory.readRange m 0 n = some bs) :
    Memory.readRange (Memory.write m n v) 0 (n + 1) = some (bs ++ [v]) := by
  refine Memory.readRange_succ ?_ (by simp)
  rw [← h]
  exact Memory.readRange_congr fun j _ hj => Memory.read_write_other m v (by omega)

theorem Memory.readRange_length {m : Memory} {a n : Nat} {bs : List Byte}
    (h : Memory.readRange m a n = some bs) : bs.length = n := by
  induction n generalizing a bs with
  | zero => obtain rfl : [] = bs := by simpa using h
            rfl
  | succ n ih =>
    simp only [Memory.readRange] at h
    split at h
    · rename_i h₂
      obtain rfl := Option.some.inj h
      simp [ih h₂]
    · cases h

end Sys2Proof.Machine
end

