-- ==== Sys2Proof/Laws/State.lean ====
section
/-! SUPPORT. One lemma per field for each update of the state, so that no proof unfolds a record update. -/

namespace Sys2Proof.Machine

variable (s : State)


@[simp] theorem State.setEvent_cfg (e : Event) : (s.setEvent e).cfg = s.cfg := rfl
@[simp] theorem State.setEvent_st (e : Event) : (s.setEvent e).st = s.st := rfl
@[simp] theorem State.setEvent_idx (e : Event) : (s.setEvent e).idx = s.idx := rfl
@[simp] theorem State.setEvent_cnt (e : Event) : (s.setEvent e).cnt = s.cnt := rfl
@[simp] theorem State.setEvent_cls (e : Event) : (s.setEvent e).cls = s.cls := rfl
@[simp] theorem State.setEvent_mid (e : Event) : (s.setEvent e).mid = s.mid := rfl
@[simp] theorem State.setEvent_len (e : Event) : (s.setEvent e).len = s.len := rfl
@[simp] theorem State.setEvent_ckA (e : Event) : (s.setEvent e).ckA = s.ckA := rfl
@[simp] theorem State.setEvent_ckB (e : Event) : (s.setEvent e).ckB = s.ckB := rfl
@[simp] theorem State.setEvent_rxA (e : Event) : (s.setEvent e).rxA = s.rxA := rfl
@[simp] theorem State.setEvent_ev (e : Event) : (s.setEvent e).ev = e := rfl
@[simp] theorem State.setEvent_dropped (e : Event) : (s.setEvent e).dropped = s.dropped := rfl
@[simp] theorem State.setEvent_pbuf (e : Event) : (s.setEvent e).pbuf = s.pbuf := rfl
@[simp] theorem State.setEvent_input (e : Event) : (s.setEvent e).input = s.input := rfl

@[simp] theorem State.enter_cfg (r : RxState) : (s.enter r).cfg = s.cfg := rfl
@[simp] theorem State.enter_st (r : RxState) : (s.enter r).st = r := rfl
@[simp] theorem State.enter_idx (r : RxState) : (s.enter r).idx = 0 := rfl
@[simp] theorem State.enter_cnt (r : RxState) : (s.enter r).cnt = s.cnt := rfl
@[simp] theorem State.enter_cls (r : RxState) : (s.enter r).cls = s.cls := rfl
@[simp] theorem State.enter_mid (r : RxState) : (s.enter r).mid = s.mid := rfl
@[simp] theorem State.enter_len (r : RxState) : (s.enter r).len = s.len := rfl
@[simp] theorem State.enter_ckA (r : RxState) : (s.enter r).ckA = s.ckA := rfl
@[simp] theorem State.enter_ckB (r : RxState) : (s.enter r).ckB = s.ckB := rfl
@[simp] theorem State.enter_rxA (r : RxState) : (s.enter r).rxA = s.rxA := rfl
@[simp] theorem State.enter_ev (r : RxState) : (s.enter r).ev = s.ev := rfl
@[simp] theorem State.enter_dropped (r : RxState) : (s.enter r).dropped = s.dropped := rfl
@[simp] theorem State.enter_pbuf (r : RxState) : (s.enter r).pbuf = s.pbuf := rfl
@[simp] theorem State.enter_input (r : RxState) : (s.enter r).input = s.input := rfl

@[simp] theorem State.drop_cfg (k : Nat) : (s.drop k).cfg = s.cfg := rfl
@[simp] theorem State.drop_st (k : Nat) : (s.drop k).st = s.st := rfl
@[simp] theorem State.drop_idx (k : Nat) : (s.drop k).idx = s.idx := rfl
@[simp] theorem State.drop_cnt (k : Nat) : (s.drop k).cnt = s.cnt := rfl
@[simp] theorem State.drop_cls (k : Nat) : (s.drop k).cls = s.cls := rfl
@[simp] theorem State.drop_mid (k : Nat) : (s.drop k).mid = s.mid := rfl
@[simp] theorem State.drop_len (k : Nat) : (s.drop k).len = s.len := rfl
@[simp] theorem State.drop_ckA (k : Nat) : (s.drop k).ckA = s.ckA := rfl
@[simp] theorem State.drop_ckB (k : Nat) : (s.drop k).ckB = s.ckB := rfl
@[simp] theorem State.drop_rxA (k : Nat) : (s.drop k).rxA = s.rxA := rfl
@[simp] theorem State.drop_ev (k : Nat) : (s.drop k).ev = s.ev := rfl
@[simp] theorem State.drop_dropped (k : Nat) : (s.drop k).dropped = dropCount s.cfg.dropW s.dropped k := rfl
@[simp] theorem State.drop_pbuf (k : Nat) : (s.drop k).pbuf = s.pbuf := rfl
@[simp] theorem State.drop_input (k : Nat) : (s.drop k).input = s.input := rfl

@[simp] theorem State.clearChecksum_cfg : (s.clearChecksum).cfg = s.cfg := rfl
@[simp] theorem State.clearChecksum_st : (s.clearChecksum).st = s.st := rfl
@[simp] theorem State.clearChecksum_idx : (s.clearChecksum).idx = s.idx := rfl
@[simp] theorem State.clearChecksum_cnt : (s.clearChecksum).cnt = s.cnt := rfl
@[simp] theorem State.clearChecksum_cls : (s.clearChecksum).cls = s.cls := rfl
@[simp] theorem State.clearChecksum_mid : (s.clearChecksum).mid = s.mid := rfl
@[simp] theorem State.clearChecksum_len : (s.clearChecksum).len = s.len := rfl
@[simp] theorem State.clearChecksum_ckA : (s.clearChecksum).ckA = 0 := rfl
@[simp] theorem State.clearChecksum_ckB : (s.clearChecksum).ckB = 0 := rfl
@[simp] theorem State.clearChecksum_rxA : (s.clearChecksum).rxA = s.rxA := rfl
@[simp] theorem State.clearChecksum_ev : (s.clearChecksum).ev = s.ev := rfl
@[simp] theorem State.clearChecksum_dropped : (s.clearChecksum).dropped = s.dropped := rfl
@[simp] theorem State.clearChecksum_pbuf : (s.clearChecksum).pbuf = s.pbuf := rfl
@[simp] theorem State.clearChecksum_input : (s.clearChecksum).input = s.input := rfl

@[simp] theorem State.accumulate_cfg (v : Byte) : (s.accumulate v).cfg = s.cfg := rfl
@[simp] theorem State.accumulate_st (v : Byte) : (s.accumulate v).st = s.st := rfl
@[simp] theorem State.accumulate_idx (v : Byte) : (s.accumulate v).idx = s.idx := rfl
@[simp] theorem State.accumulate_cnt (v : Byte) : (s.accumulate v).cnt = s.cnt := rfl
@[simp] theorem State.accumulate_cls (v : Byte) : (s.accumulate v).cls = s.cls := rfl
@[simp] theorem State.accumulate_mid (v : Byte) : (s.accumulate v).mid = s.mid := rfl
@[simp] theorem State.accumulate_len (v : Byte) : (s.accumulate v).len = s.len := rfl
@[simp] theorem State.accumulate_ckA (v : Byte) : (s.accumulate v).ckA = (fletcherStep (s.ckA, s.ckB) v).1 := rfl
@[simp] theorem State.accumulate_ckB (v : Byte) : (s.accumulate v).ckB = (fletcherStep (s.ckA, s.ckB) v).2 := rfl
@[simp] theorem State.accumulate_rxA (v : Byte) : (s.accumulate v).rxA = s.rxA := rfl
@[simp] theorem State.accumulate_ev (v : Byte) : (s.accumulate v).ev = s.ev := rfl
@[simp] theorem State.accumulate_dropped (v : Byte) : (s.accumulate v).dropped = s.dropped := rfl
@[simp] theorem State.accumulate_pbuf (v : Byte) : (s.accumulate v).pbuf = s.pbuf := rfl
@[simp] theorem State.accumulate_input (v : Byte) : (s.accumulate v).input = s.input := rfl

@[simp] theorem State.storePayload_cfg (v : Byte) : (s.storePayload v).cfg = s.cfg := rfl
@[simp] theorem State.storePayload_st (v : Byte) : (s.storePayload v).st = s.st := rfl
@[simp] theorem State.storePayload_idx (v : Byte) : (s.storePayload v).idx = s.idx := rfl
@[simp] theorem State.storePayload_cnt (v : Byte) : (s.storePayload v).cnt = s.cnt + 1 := rfl
@[simp] theorem State.storePayload_cls (v : Byte) : (s.storePayload v).cls = s.cls := rfl
@[simp] theorem State.storePayload_mid (v : Byte) : (s.storePayload v).mid = s.mid := rfl
@[simp] theorem State.storePayload_len (v : Byte) : (s.storePayload v).len = s.len := rfl
@[simp] theorem State.storePayload_ckA (v : Byte) : (s.storePayload v).ckA = s.ckA := rfl
@[simp] theorem State.storePayload_ckB (v : Byte) : (s.storePayload v).ckB = s.ckB := rfl
@[simp] theorem State.storePayload_rxA (v : Byte) : (s.storePayload v).rxA = s.rxA := rfl
@[simp] theorem State.storePayload_ev (v : Byte) : (s.storePayload v).ev = s.ev := rfl
@[simp] theorem State.storePayload_dropped (v : Byte) : (s.storePayload v).dropped = s.dropped := rfl
@[simp] theorem State.storePayload_pbuf (v : Byte) : (s.storePayload v).pbuf = Memory.write s.pbuf s.cnt.toNat v := rfl
@[simp] theorem State.storePayload_input (v : Byte) : (s.storePayload v).input = s.input := rfl

@[simp] theorem State.signal_cfg (e : Event) : (s.signal e).cfg = s.cfg := rfl
@[simp] theorem State.signal_st (e : Event) : (s.signal e).st = .seekingSync1 := rfl
@[simp] theorem State.signal_idx (e : Event) : (s.signal e).idx = 0 := rfl
@[simp] theorem State.signal_cnt (e : Event) : (s.signal e).cnt = s.cnt := rfl
@[simp] theorem State.signal_cls (e : Event) : (s.signal e).cls = s.cls := rfl
@[simp] theorem State.signal_mid (e : Event) : (s.signal e).mid = s.mid := rfl
@[simp] theorem State.signal_len (e : Event) : (s.signal e).len = s.len := rfl
@[simp] theorem State.signal_ckA (e : Event) : (s.signal e).ckA = s.ckA := rfl
@[simp] theorem State.signal_ckB (e : Event) : (s.signal e).ckB = s.ckB := rfl
@[simp] theorem State.signal_rxA (e : Event) : (s.signal e).rxA = s.rxA := rfl
@[simp] theorem State.signal_ev (e : Event) : (s.signal e).ev = e := rfl
@[simp] theorem State.signal_dropped (e : Event) : (s.signal e).dropped = s.dropped := rfl
@[simp] theorem State.signal_pbuf (e : Event) : (s.signal e).pbuf = s.pbuf := rfl
@[simp] theorem State.signal_input (e : Event) : (s.signal e).input = s.input := rfl

@[simp] theorem State.afterReset_cfg : (s.afterReset).cfg = s.cfg := rfl
@[simp] theorem State.afterReset_st : (s.afterReset).st = .seekingSync1 := rfl
@[simp] theorem State.afterReset_idx : (s.afterReset).idx = 0 := rfl
@[simp] theorem State.afterReset_cnt : (s.afterReset).cnt = 0 := rfl
@[simp] theorem State.afterReset_cls : (s.afterReset).cls = 0 := rfl
@[simp] theorem State.afterReset_mid : (s.afterReset).mid = 0 := rfl
@[simp] theorem State.afterReset_len : (s.afterReset).len = 0 := rfl
@[simp] theorem State.afterReset_ckA : (s.afterReset).ckA = 0 := rfl
@[simp] theorem State.afterReset_ckB : (s.afterReset).ckB = 0 := rfl
@[simp] theorem State.afterReset_rxA : (s.afterReset).rxA = 0 := rfl
@[simp] theorem State.afterReset_ev : (s.afterReset).ev = .none := rfl
@[simp] theorem State.afterReset_dropped : (s.afterReset).dropped = 0 := rfl
@[simp] theorem State.afterReset_pbuf : (s.afterReset).pbuf = s.pbuf := rfl
@[simp] theorem State.afterReset_input : (s.afterReset).input = s.input := rfl

end Sys2Proof.Machine
end

