-- ==== Sys2Proof/Laws/Ops.lean ====
section
/-! SUPPORT. What each shared operation can do, said once. -/

namespace Sys2Proof.Machine

/-- The count after a drop fits its width. -/
theorem dropCount_lt (w d k : Nat) : dropCount w d k < 2 ^ w := Nat.mod_lt _ (Nat.two_pow_pos w)

/-- Drops add up before the reduction. -/
theorem dropCount_add (w d j k : Nat) : dropCount w (dropCount w d j) k = dropCount w d (j + k) := by
  simp [dropCount, Nat.add_assoc]

theorem dropCount_zero {w d : Nat} (h : d < 2 ^ w) : dropCount w d 0 = d := Nat.mod_eq_of_lt h

/-- The verdict is FRAME_OK exactly when both bytes match. -/
@[simp] theorem verdict_eq_frameOk {ckA ckB rxA v : Byte} : verdict ckA ckB rxA v = .frameOk ↔ rxA = ckA ∧ v = ckB := by
  unfold verdict; split <;> simp_all

@[simp] theorem verdict_eq_ckMismatch {ckA ckB rxA v : Byte} :
    verdict ckA ckB rxA v = .ckMismatch ↔ ¬(rxA = ckA ∧ v = ckB) := by
  unfold verdict; split <;> simp_all

@[simp] theorem verdict_ne_none (ckA ckB rxA v : Byte) : verdict ckA ckB rxA v ≠ .none := by
  unfold verdict; split <;> simp

/-- The accumulators as natural numbers, exactly and then reduced (R60). -/
theorem fletcherStep_toNat (ab : Byte × Byte) (v : Byte) :
    ((fletcherStep ab v).1.toNat = (ab.1.toNat + v.toNat) % 256)
    ∧ (fletcherStep ab v).2.toNat = (ab.2.toNat + (ab.1.toNat + v.toNat)) % 256 := by
  simp [fletcherStep]

@[simp] theorem u16le_toNat (lo hi : Byte) : (u16le lo hi).toNat = lo.toNat + 256 * hi.toNat := by
  have := lo.isLt
  rw [u16le, BitVec.toNat_append, Nat.shiftLeft_eq, Nat.mul_comm, Nat.two_pow_add_eq_or_of_lt lo.isLt hi.toNat |>.symm]
  omega

@[simp] theorem loByte_toNat (x : Word16) : (loByte x).toNat = x.toNat % 256 := by
  simp [loByte, BitVec.extractLsb'_toNat]

@[simp] theorem hiByte_toNat (x : Word16) : (hiByte x).toNat = x.toNat / 256 := by
  have := x.isLt
  simp only [hiByte, BitVec.extractLsb'_toNat, Nat.shiftRight_eq_div_pow]
  omega

/-- A 16-bit register is the little-endian value of its two bytes. -/
@[simp] theorem u16le_lo_hi (x : Word16) : u16le (loByte x) (hiByte x) = x := by
  apply BitVec.eq_of_toNat_eq
  simp only [u16le_toNat, loByte_toNat, hiByte_toNat]
  omega

@[simp] theorem loByte_u16le (lo hi : Byte) : loByte (u16le lo hi) = lo := BitVec.extractLsb'_append_eq_right

@[simp] theorem hiByte_u16le (lo hi : Byte) : hiByte (u16le lo hi) = hi := BitVec.extractLsb'_append_eq_left

@[simp] theorem loByte_zeroExtend (v : Byte) : loByte (v.zeroExtend 16) = v := by
  apply BitVec.eq_of_toNat_eq
  have := v.isLt
  simp only [loByte_toNat, BitVec.toNat_setWidth]
  omega

/-- The read port shows a written cell of the buffer. -/
theorem readPort_written {s : State} {a : Word16} {b : Byte} (ha : a.toNat < s.cfg.maxLen.val)
    (hb : Memory.read s.pbuf a.toNat = some b) (nth : Nat) : readPort s nth a = b := by
  simp [readPort, ha, hb]

@[simp] theorem ofCode?_code (r : RxState) : RxState.ofCode? r.code = some r := by cases r <;> rfl

end Sys2Proof.Machine
end

