-- ==== Sys2Proof/Laws/Codec.lean ====
section
/-! SUPPORT. The reference functions' small lemmas. -/

namespace Sys2Proof.Machine

@[simp] theorem fletcher8_nil : fletcher8 [] = (0, 0) := rfl

/-- The append law of R60: what lets the hardware keep running accumulators. -/
theorem fletcher8_append_singleton (s : List Byte) (v : Byte) :
    fletcher8 (s ++ [v]) = fletcherStep (fletcher8 s) v := by
  simp [fletcher8, List.foldl_append]

theorem coveredBytes_length (c i : Byte) (p : List Byte) : (coveredBytes c i p).length = p.length + 4 := by
  simp [coveredBytes]

/-- Everything `Frame.make?` can answer. -/
@[simp] theorem Frame.make?_eq_some {c i : Byte} {p : List Byte} {f : Frame} :
    Frame.make? c i p = some f ↔ f.cls = c ∧ f.mid = i ∧ f.payload = p := by
  unfold Frame.make?
  split
  · rw [Option.some_inj, Frame.ext_iff]
    exact ⟨fun ⟨h₁, h₂, h₃⟩ => ⟨h₁.symm, h₂.symm, h₃.symm⟩, fun ⟨h₁, h₂, h₃⟩ => ⟨h₁.symm, h₂.symm, h₃.symm⟩⟩
  · rename_i h
    exact ⟨fun e => (Option.some_ne_none _ e.symm).elim, fun e => (h (e.2.2 ▸ f.bound)).elim⟩

end Sys2Proof.Machine
end

