-- ==== Sys2Proof/Laws/Exec.lean ====
section
/-! SUPPORT. For each operation, once, everything it can do: when it answers a next state, and which. -/

namespace Sys2Proof.Machine

@[simp] theorem whenSelected_next {sel : Prop} [Decidable sel] {o : Host.Outcome State Fault Refusal} {t : State} :
    whenSelected sel o = .next t ↔ sel ∧ o = .next t := by
  by_cases h : sel <;> simp [whenSelected, h]

@[simp] theorem whenDefined_next {ok : Prop} [Decidable ok] {o : Host.Outcome State Fault Refusal} {t : State} :
    whenDefined ok o = .next t ↔ ok ∧ o = .next t := by
  by_cases h : ok <;> simp [whenDefined, h]

@[simp] theorem next_inj {s t : State} :
    (Host.Outcome.next s : Host.Outcome State Fault Refusal) = .next t ↔ s = t :=
  ⟨fun h => by cases h; rfl, fun h => by rw [h]⟩

theorem execReset_next {s t : State} : exec .reset s = .next t ↔ s.afterReset = t := next_inj

theorem execIdle_next {s t : State} : exec .idle s = .next t ↔ s.setEvent .none = t := next_inj

theorem execS1Hit_next {s t : State} :
    exec .s1Hit s = .next t ↔
      s.st = .seekingSync1 ∧ s.idx = 0 ∧ { s with st := .seekingSync2, ev := .none } = t := by
  simp [exec, execS1Hit, State.setEvent]

theorem execS1Miss_next {v : Byte} {s t : State} :
    exec (.s1Miss v) s = .next t ↔
      (s.st = .seekingSync1 ∧ v ≠ sync1) ∧ s.idx = 0 ∧ (s.drop 1).setEvent .none = t := by
  simp [exec, execS1Miss]

theorem execS2Hit_next {s t : State} :
    exec .s2Hit s = .next t ↔
      s.st = .seekingSync2 ∧ s.idx = 0 ∧
        { s with st := .readingHeader, idx := 0, ckA := 0, ckB := 0, ev := .none } = t := by
  simp [exec, execS2Hit, State.setEvent, State.clearChecksum, State.enter]

theorem execS2Resync_next {s t : State} :
    exec .s2Resync s = .next t ↔
      s.st = .seekingSync2 ∧ s.idx = 0 ∧ (s.drop 1).setEvent .none = t := by
  simp [exec, execS2Resync]

theorem execS2Miss_next {v : Byte} {s t : State} :
    exec (.s2Miss v) s = .next t ↔
      (s.st = .seekingSync2 ∧ v ≠ sync2 ∧ v ≠ sync1) ∧ s.idx = 0 ∧
        { s.drop 2 with st := .seekingSync1, ev := .none } = t := by
  simp [exec, execS2Miss, State.setEvent, State.drop]

theorem execHClass_next {v : Byte} {s t : State} :
    exec (.hClass v) s = .next t ↔
      (s.st = .readingHeader ∧ s.idx = 0) ∧ { s.accumulate v with cls := v, idx := 1, ev := .none } = t := by
  simp [exec, execHClass, State.setEvent]

theorem execHId_next {v : Byte} {s t : State} :
    exec (.hId v) s = .next t ↔
      (s.st = .readingHeader ∧ s.idx = 1) ∧ { s.accumulate v with mid := v, idx := 2, ev := .none } = t := by
  simp [exec, execHId, State.setEvent]

theorem execHLenlo_next {v : Byte} {s t : State} :
    exec (.hLenlo v) s = .next t ↔
      (s.st = .readingHeader ∧ s.idx = 2) ∧
        { s.accumulate v with len := v.zeroExtend 16, idx := 3, ev := .none } = t := by
  simp [exec, execHLenlo, State.setEvent]

/-- The state and the event H_LENHI leaves for the length `l` (R83). -/
def lengthOutcome (maxLen : Nat) (l : Word16) : RxState × Event :=
  if maxLen < l.toNat then (.seekingSync1, .frameTooLarge)
  else if l = 0 then (.readingChecksum, .none)
  else (.readingPayload, .none)

theorem execHLenhi_next {v : Byte} {s t : State} :
    exec (.hLenhi v) s = .next t ↔
      (s.st = .readingHeader ∧ s.idx = 3) ∧
        { s.accumulate v with
          len := u16le (loByte s.len) v, cnt := 0, idx := 0
          st := (lengthOutcome s.cfg.maxLen.val (u16le (loByte s.len) v)).1
          ev := (lengthOutcome s.cfg.maxLen.val (u16le (loByte s.len) v)).2 } = t := by
  simp only [exec, execHLenhi, whenSelected_next, next_inj, lengthOutcome]
  refine and_congr_right fun _ => ?_
  split
  · rfl
  · split <;> rfl

theorem execPByte_next {v : Byte} {s t : State} :
    exec (.pByte v) s = .next t ↔
      s.st = .readingPayload ∧ (s.idx = 0 ∧ s.cnt.toNat < s.len.toNat) ∧ s.cnt.toNat < s.cfg.maxLen.val ∧
        { (s.storePayload v).accumulate v with
          st := if s.cnt + 1 = s.len then .readingChecksum else .readingPayload
          idx := 0
          ev := .none } = t := by
  simp only [exec, execPByte, whenSelected_next, whenDefined_next]
  refine and_congr_right fun hst => and_congr_right fun ⟨hidx, _⟩ => ?_
  by_cases hm : s.cnt.toNat < s.cfg.maxLen.val
  · by_cases hl : s.cnt + 1#16 = s.len
    · simp [hm, hl, State.enter, State.setEvent]
    · simp [hm, hl, State.setEvent, State.accumulate, State.storePayload, hst, hidx]
  · simp [hm]

theorem execCA_next {v : Byte} {s t : State} :
    exec (.cA v) s = .next t ↔
      (s.st = .readingChecksum ∧ s.idx = 0) ∧ { s with rxA := v, idx := 1, ev := .none } = t := by
  simp [exec, execCA, State.setEvent]

theorem execCB_next {v : Byte} {s t : State} :
    exec (.cB v) s = .next t ↔
      (s.st = .readingChecksum ∧ s.idx = 1) ∧ s.signal (verdict s.ckA s.ckB s.rxA v) = t := by
  simp [exec, execCB]

end Sys2Proof.Machine
end

