-- ==== Sys2Proof/Laws/PerInstr.lean ====
section
/-! SUPPORT. The family of lemmas over all instructions: the encoder writes a word that the instruction's own row of the
operation map selects (spec/30_encoding.md R52), with the operand in `in_data`. -/

namespace Sys2Proof

/-- The match of an instruction's row of R52. -/
def rowPattern : Instr → Key
  | .reset => 0x4000#15
  | .idle => 0x0000#15
  | .s1Hit => 0x20B5#15
  | .s1Miss _ => 0x2000#15
  | .s2Hit => 0x2462#15
  | .s2Resync => 0x24B5#15
  | .s2Miss _ => 0x2400#15
  | .hClass _ => 0x2800#15
  | .hId _ => 0x2900#15
  | .hLenlo _ => 0x2A00#15
  | .hLenhi _ => 0x2B00#15
  | .pByte _ => 0x2C00#15
  | .cA _ => 0x3000#15
  | .cB _ => 0x3100#15

/-- The mask of an instruction's row of R52. -/
def rowMask : Instr → Key
  | .reset => 0x4000#15
  | .idle => 0x6000#15
  | .s1Hit | .s2Hit | .s2Resync => 0x7CFF#15
  | .s1Miss _ | .s2Miss _ | .pByte _ => 0x7C00#15
  | .hClass _ | .hId _ | .hLenlo _ | .hLenhi _ | .cA _ | .cB _ => 0x7F00#15

/-- The byte an instruction carries as its operand. -/
def operand? : Instr → Option Byte
  | .reset | .idle | .s1Hit | .s2Hit | .s2Resync => none
  | .s1Miss v | .s2Miss v | .pByte v => some v
  | .hClass v | .hId v | .hLenlo v | .hLenhi v | .cA v | .cB v => some v

theorem control_and_mask (c m : BitVec 7) (v : Byte) :
    ((c ++ v : Key) &&& (m ++ 0#8 : Key)) = ((c &&& m) ++ 0#8 : Key) := by
  rw [BitVec.and_append]; simp

theorem inData_control (c : BitVec 7) (v : Byte) : Key.inData (c ++ v : Key) = v :=
  BitVec.extractLsb'_append_eq_right

/-- The word of an instruction is one its row selects, and its operand stands in `in_data`. -/
def Laws.EncodeMatchesRow.Statement (i : Instr) : Prop :=
  encode i &&& rowMask i = rowPattern i ∧ ∀ v, operand? i = some v → (encode i).inData = v

namespace Laws.EncodeMatchesRow

theorem reset : Statement .reset := ⟨by decide, by simp [operand?]⟩
theorem idle : Statement .idle := ⟨by decide, by simp [operand?]⟩
theorem s1Hit : Statement .s1Hit := ⟨by decide, by simp [operand?]⟩
theorem s1Miss (v : Byte) : Statement (.s1Miss v) :=
  ⟨control_and_mask 0x20 0x7C v, fun _ h => by cases h; exact inData_control 0x20 v⟩
theorem s2Hit : Statement .s2Hit := ⟨by decide, by simp [operand?]⟩
theorem s2Resync : Statement .s2Resync := ⟨by decide, by simp [operand?]⟩
theorem s2Miss (v : Byte) : Statement (.s2Miss v) :=
  ⟨control_and_mask 0x24 0x7C v, fun _ h => by cases h; exact inData_control 0x24 v⟩
theorem hClass (v : Byte) : Statement (.hClass v) :=
  ⟨control_and_mask 0x28 0x7F v, fun _ h => by cases h; exact inData_control 0x28 v⟩
theorem hId (v : Byte) : Statement (.hId v) :=
  ⟨control_and_mask 0x29 0x7F v, fun _ h => by cases h; exact inData_control 0x29 v⟩
theorem hLenlo (v : Byte) : Statement (.hLenlo v) :=
  ⟨control_and_mask 0x2A 0x7F v, fun _ h => by cases h; exact inData_control 0x2A v⟩
theorem hLenhi (v : Byte) : Statement (.hLenhi v) :=
  ⟨control_and_mask 0x2B 0x7F v, fun _ h => by cases h; exact inData_control 0x2B v⟩
theorem pByte (v : Byte) : Statement (.pByte v) :=
  ⟨control_and_mask 0x2C 0x7C v, fun _ h => by cases h; exact inData_control 0x2C v⟩
theorem cA (v : Byte) : Statement (.cA v) :=
  ⟨control_and_mask 0x30 0x7F v, fun _ h => by cases h; exact inData_control 0x30 v⟩
theorem cB (v : Byte) : Statement (.cB v) :=
  ⟨control_and_mask 0x31 0x7F v, fun _ h => by cases h; exact inData_control 0x31 v⟩

end Laws.EncodeMatchesRow

end Sys2Proof
end

