-- ==== Sys2Proof/Laws/Select.lean ====
section
/-! SUPPORT. How the selector reads a key: a row's masked comparison taken apart into its control bits and `in_data`. -/

namespace Sys2Proof.Machine

/-- The upper seven bits of a key: `rst`, `in_valid`, `st`, `idx`. -/
def keyControl (rst inValid : Bool) (stCode : BitVec 3) (idx : BitVec 2) : BitVec 7 :=
  BitVec.ofBool rst ++ BitVec.ofBool inValid ++ stCode ++ idx

theorem Key.pack_eq_append (rst inValid : Bool) (stCode : BitVec 3) (idx : BitVec 2) (d : Byte) :
    Key.pack rst inValid stCode idx d = (keyControl rst inValid stCode idx ++ d : Key) := rfl

theorem selectorKey_eq_append (s : State) (c : CycleInput) :
    selectorKey s c = (keyControl c.rst c.inValid s.st.code s.idx ++ c.inData : Key) := rfl

@[simp] theorem Key.inData_append (h : BitVec 7) (d : Byte) : Key.inData (h ++ d : Key) = d :=
  BitVec.extractLsb'_append_eq_right

/-- Every key is its control bits and its `in_data`. -/
theorem Key.exists_append (k : Key) : ∃ (h : BitVec 7) (d : Byte), k = (h ++ d : Key) :=
  ⟨k.extractLsb' 8 7, k.extractLsb' 0 8, by
    apply BitVec.eq_of_toNat_eq
    have := k.isLt
    simp only [BitVec.toNat_append, BitVec.extractLsb'_toNat, Nat.shiftRight_eq_div_pow]
    rw [Nat.shiftLeft_eq, Nat.mul_comm, ← Nat.two_pow_add_eq_or_of_lt (Nat.mod_lt _ (by decide))]
    omega⟩

@[simp] theorem Key.rst_append (h : BitVec 7) (d : Byte) : Key.rst (h ++ d : Key) = h.getLsbD 6 := by
  rw [Key.rst, BitVec.getLsbD_append]; rfl

@[simp] theorem Key.inValid_append (h : BitVec 7) (d : Byte) : Key.inValid (h ++ d : Key) = h.getLsbD 5 := by
  rw [Key.inValid, BitVec.getLsbD_append]; rfl

@[simp] theorem Key.stCode_append (h : BitVec 7) (d : Byte) : Key.stCode (h ++ d : Key) = h.extractLsb' 2 3 := by
  apply BitVec.eq_of_getLsbD_eq
  intro i hi
  rw [Key.stCode, BitVec.getLsbD_extractLsb', BitVec.getLsbD_extractLsb', BitVec.getLsbD_append,
    if_neg (by omega), show 10 + i - 8 = 2 + i by omega]

@[simp] theorem Key.idx_append (h : BitVec 7) (d : Byte) : Key.idx (h ++ d : Key) = h.extractLsb' 0 2 := by
  apply BitVec.eq_of_getLsbD_eq
  intro i hi
  rw [Key.idx, BitVec.getLsbD_extractLsb', BitVec.getLsbD_extractLsb', BitVec.getLsbD_append,
    if_neg (by omega), show 8 + i - 8 = 0 + i by omega]

theorem append_beq_append (h h' : BitVec 7) (d d' : Byte) :
    ((h ++ d : Key) == (h' ++ d' : Key)) = (h == h' && d == d') := by
  rw [Bool.eq_iff_iff]
  simp only [beq_iff_eq, Bool.and_eq_true]
  refine ⟨fun e => ⟨?_, ?_⟩, fun ⟨e₁, e₂⟩ => by rw [e₁, e₂]⟩
  · rw [← BitVec.extractLsb'_append_eq_left (a := h) (b := d), e, BitVec.extractLsb'_append_eq_left]
  · rw [← BitVec.extractLsb'_append_eq_right (a := h) (b := d), e, BitVec.extractLsb'_append_eq_right]

/-- A row's test, control bits and `in_data` apart. -/
theorem masked_append (h m p : BitVec 7) (d m' p' : Byte) :
    ((h ++ d : Key) &&& (m ++ m' : Key) == (p ++ p' : Key)) = ((h &&& m == p) && (d &&& m' == p')) := by
  rw [BitVec.and_append, append_beq_append]

theorem map_find_cons (q : OpRow → Bool) (f : OpRow → Instr) (r : OpRow) (rs : List OpRow) :
    ((r :: rs).find? q).map f = if q r then some (f r) else (rs.find? q).map f := by
  cases hq : q r <;> simp [hq]

theorem ite_and_ite {α : Type} (A B : Prop) [Decidable A] [Decidable B] (x y z : α) :
    (if A ∧ B then x else if A then y else z) = if A then (if B then x else y) else z := by
  by_cases hA : A <;> simp [hA]

/-- The decoder with every row's test taken apart. -/
theorem decodeKey_append (h : BitVec 7) (d : Byte) :
    decodeKey (h ++ d : Key) =
      if h &&& 0x40 = 0x40 then some .reset
      else if h &&& 0x60 = 0 then some .idle
      else if h &&& 0x7C = 0x20 then (if d = sync1 then some .s1Hit else some (.s1Miss d))
      else if h &&& 0x7C = 0x24 then
        (if d = sync2 then some .s2Hit else if d = sync1 then some .s2Resync else some (.s2Miss d))
      else if h = 0x28 then some (.hClass d)
      else if h = 0x29 then some (.hId d)
      else if h = 0x2A then some (.hLenlo d)
      else if h = 0x2B then some (.hLenhi d)
      else if h &&& 0x7C = 0x2C then some (.pByte d)
      else if h = 0x30 then some (.cA d)
      else if h = 0x31 then some (.cB d)
      else none := by
  have e : ∀ x y : BitVec 7, ∀ a b : Byte, ∀ m p : Key, m = (x ++ a : Key) → p = (y ++ b : Key) →
      ((h ++ d : Key) &&& m == p) = ((h &&& x == y) && (d &&& a == b)) := by
    rintro x y a b _ _ rfl rfl; exact masked_append h x y d a b
  have hz : ∀ x : Byte, x &&& 0 = 0 := by simp
  have hf : ∀ x : Byte, x &&& 0xFF = x := by decide
  have h7 : ∀ x : BitVec 7, x &&& 0x7F = x := by decide
  simp only [decodeKey, opTable, map_find_cons, List.find?_nil, Option.map_none, OpRow.selects, Key.inData_append]
  rw [e 0x40 0x40 0 0 0x4000#15 0x4000#15 (by decide) (by decide),
    e 0x60 0 0 0 0x6000#15 0x0000#15 (by decide) (by decide),
    e 0x7C 0x20 0xFF 0xB5 0x7CFF#15 0x20B5#15 (by decide) (by decide),
    e 0x7C 0x20 0 0 0x7C00#15 0x2000#15 (by decide) (by decide),
    e 0x7C 0x24 0xFF 0x62 0x7CFF#15 0x2462#15 (by decide) (by decide),
    e 0x7C 0x24 0xFF 0xB5 0x7CFF#15 0x24B5#15 (by decide) (by decide),
    e 0x7C 0x24 0 0 0x7C00#15 0x2400#15 (by decide) (by decide),
    e 0x7F 0x28 0 0 0x7F00#15 0x2800#15 (by decide) (by decide),
    e 0x7F 0x29 0 0 0x7F00#15 0x2900#15 (by decide) (by decide),
    e 0x7F 0x2A 0 0 0x7F00#15 0x2A00#15 (by decide) (by decide),
    e 0x7F 0x2B 0 0 0x7F00#15 0x2B00#15 (by decide) (by decide),
    e 0x7C 0x2C 0 0 0x7C00#15 0x2C00#15 (by decide) (by decide),
    e 0x7F 0x30 0 0 0x7F00#15 0x3000#15 (by decide) (by decide),
    e 0x7F 0x31 0 0 0x7F00#15 0x3100#15 (by decide) (by decide)]
  simp only [hz, hf, h7, beq_self_eq_true, Bool.and_true, Bool.and_eq_true, beq_iff_eq, ite_and_ite, sync1, sync2]
  rfl

end Sys2Proof.Machine
end

