-- ==== Sys2Proof/Laws/Stream.lean ====
section
/-! SUPPORT. What a state describes and delivers as a frame (spec/60_exceptions.md R126). -/

namespace Sys2Proof.Machine

/-- Everything `State.describedFrame` can answer. -/
theorem State.describedFrame_eq_some {s : State} {f : Frame} :
    s.describedFrame = some f ↔
      f.cls = s.cls ∧ f.mid = s.mid ∧ Memory.readRange s.pbuf 0 s.len.toNat = some f.payload := by
  simp only [State.describedFrame, Option.bind_eq_some_iff, Frame.make?_eq_some]
  exact ⟨fun ⟨p, h, h₁, h₂, h₃⟩ => ⟨h₁, h₂, h₃ ▸ h⟩, fun ⟨h₁, h₂, h⟩ => ⟨_, h, h₁, h₂, rfl⟩⟩

/-- Where the cells below `len` have been written, the state describes a frame: `len` is within the bound of R63. -/
theorem State.describedFrame_of_readRange {s : State} {p : List Byte}
    (h : Memory.readRange s.pbuf 0 s.len.toNat = some p) :
    ∃ f, s.describedFrame = some f ∧ f.cls = s.cls ∧ f.mid = s.mid ∧ f.payload = p := by
  have hl : p.length ≤ 65535 := by
    rw [Memory.readRange_length h]
    exact Nat.le_of_lt_succ s.len.isLt
  exact ⟨⟨s.cls, s.mid, p, hl⟩, State.describedFrame_eq_some.2 ⟨rfl, rfl, h⟩, rfl, rfl, rfl⟩

@[simp] theorem State.deliveredFrame_of_frameOk {t : State} (h : t.ev = .frameOk) :
    t.deliveredFrame = t.describedFrame := if_pos h

@[simp] theorem State.deliveredFrame_of_ne_frameOk {t : State} (h : t.ev ≠ .frameOk) : t.deliveredFrame = none :=
  if_neg h

end Sys2Proof.Machine
end

