-- ==== Sys2Proof/Tests/Slice0.lean ====
section
/-! SUPPORT. Tests: ill-formed terms, keys written out from spec/30_encoding.md R50 and R52, one step per operation on the
vectors of spec/95_test_vectors.md, and for every obligation with hypotheses a state and operands that meet them. -/

namespace Sys2Proof.Tests

open Sys2Proof Sys2Proof.Machine

/-! ## WellFormed refuses -/

theorem test_wf_refuses_s1_miss_sync1 : Instr.wf (.s1Miss 0xB5) = false := by decide
theorem test_wf_refuses_s2_miss_sync2 : Instr.wf (.s2Miss 0x62) = false := by decide
theorem test_wf_refuses_s2_miss_sync1 : Instr.wf (.s2Miss 0xB5) = false := by decide
theorem test_wf_admits_lone_sync2 : Instr.wf (.s1Miss 0x62) = true := by decide

/-! ## Keys from R50: rst, in_valid, st (3), idx (2), in_data (8); the bits are spec/opcode_table.json's "encoding" with
the free bits chosen -/

theorem test_decode_reset : decodeKey 0b1_0_000_00_00000000#15 = some .reset := by decide
theorem test_decode_reset_beats_byte : decodeKey 0b1_1_111_11_10110101#15 = some .reset := by decide
theorem test_decode_idle : decodeKey 0b0_0_011_10_10110101#15 = some .idle := by decide
theorem test_decode_s1_hit : decodeKey 0b0_1_000_00_10110101#15 = some .s1Hit := by decide
theorem test_decode_s1_miss : decodeKey 0b0_1_000_00_01100010#15 = some (.s1Miss 0x62) := by decide
theorem test_decode_s2_hit : decodeKey 0b0_1_001_00_01100010#15 = some .s2Hit := by decide
theorem test_decode_s2_resync : decodeKey 0b0_1_001_00_10110101#15 = some .s2Resync := by decide
theorem test_decode_s2_miss : decodeKey 0b0_1_001_00_00010011#15 = some (.s2Miss 0x13) := by decide
theorem test_decode_h_class : decodeKey 0b0_1_010_00_00100111#15 = some (.hClass 0x27) := by decide
theorem test_decode_h_id : decodeKey 0b0_1_010_01_00000011#15 = some (.hId 0x03) := by decide
theorem test_decode_h_lenlo : decodeKey 0b0_1_010_10_00000011#15 = some (.hLenlo 0x03) := by decide
theorem test_decode_h_lenhi : decodeKey 0b0_1_010_11_00000001#15 = some (.hLenhi 0x01) := by decide
theorem test_decode_p_byte : decodeKey 0b0_1_011_00_10110101#15 = some (.pByte 0xB5) := by decide
theorem test_decode_c_a : decodeKey 0b0_1_100_00_00101010#15 = some (.cA 0x2A) := by decide
theorem test_decode_c_b : decodeKey 0b0_1_100_01_10100101#15 = some (.cB 0xA5) := by decide
theorem test_decode_reserved_idx : decodeKey 0b0_1_100_10_00000000#15 = none := by decide
theorem test_decode_reserved_st : decodeKey 0b0_1_101_00_00000000#15 = none := by decide
theorem test_table_word : decodeTableWord 16 0x2413 = some (.s2Miss 0x13) := by decide
theorem test_table_word_too_wide : decodeTableWord 16 0x8000 = none := by decide

/-! ## One step per operation (V30 to V63); `MAX_LEN` is 16 and `DROP_W` 32 where a vector names none -/

/-- A state of a block with the vectors' parameters. -/
def at_ (st : RxState) (idx : BitVec 2 := 0) (len cnt : Word16 := 0) (ck : Byte × Byte := (0, 0)) (rxA : Byte := 0)
    (dropped : Nat := 0) (maxLen : Fin 65536 := 16) (dropW : Nat := 32) : State :=
  { State.resetOf ⟨maxLen, dropW⟩ [] with
    st := st, idx := idx, len := len, cnt := cnt, ckA := ck.1, ckB := ck.2, rxA := rxA, dropped := dropped }

/-- What `f` reads of the next state, if there is one. -/
def after {α : Type} (i : Instr) (s : State) (f : State → α) : Option α :=
  match exec i s with
  | .next t => some (f t)
  | .fault _ => none
  | .refused _ => none

theorem test_v30 : after .s1Hit (at_ .seekingSync1) (fun t => (t.st, t.dropped)) = some (.seekingSync2, 0) := by decide
theorem test_v32 : after (.s1Miss 0x62) (at_ .seekingSync1 (dropped := 5)) (fun t => (t.st, t.dropped))
    = some (.seekingSync1, 6) := by decide
theorem test_v33 : after (.s1Miss 0) (at_ .seekingSync1 (dropped := 15) (dropW := 4)) State.dropped = some 0 := by decide
theorem test_v34 : after .s2Hit (at_ .seekingSync2 (ck := (0x6B, 0xE0))) (fun t => (t.st, t.ckA, t.ckB, t.dropped))
    = some (.readingHeader, 0, 0, 0) := by decide
theorem test_v35 : after .s2Resync (at_ .seekingSync2 (dropped := 3)) (fun t => (t.st, t.dropped))
    = some (.seekingSync2, 4) := by decide
theorem test_v36 : after .s2Resync (at_ .seekingSync2 (dropped := 15) (dropW := 4)) State.dropped = some 0 := by decide
theorem test_v37 : after (.s2Miss 0x13) (at_ .seekingSync2 (dropped := 1)) (fun t => (t.st, t.dropped))
    = some (.seekingSync1, 3) := by decide
theorem test_v38 : after (.s2Miss 0x13) (at_ .seekingSync2 (dropped := 15) (dropW := 4)) State.dropped = some 1 := by
  decide
theorem test_v39 : after (.hClass 0x27) (at_ .readingHeader) (fun t => (t.cls, t.idx, t.ckA, t.ckB))
    = some (0x27, 1, 0x27, 0x27) := by decide
theorem test_v40 : after (.hClass 0xB5) (at_ .readingHeader) (fun t => (t.cls, t.st)) = some (0xB5, .readingHeader) := by
  decide
theorem test_v41 : after (.hId 0x03) (at_ .readingHeader 1 (ck := (0x27, 0x27))) (fun t => (t.mid, t.idx, t.ckA, t.ckB))
    = some (0x03, 2, 0x2A, 0x51) := by decide
theorem test_v42 : after (.hLenlo 0x03) (at_ .readingHeader 2 (len := 0x0203) (ck := (0x08, 0x09)))
    (fun t => (t.len, t.idx, t.ckA, t.ckB)) = some (0x0003, 3, 0x0B, 0x14) := by decide
theorem test_v43 : after (.hLenhi 0) (at_ .readingHeader 3 (len := 0x0010) (ck := (0x18, 0x21)))
    (fun t => (t.len, t.st, t.ckB, t.ev)) = some (16, .readingPayload, 0x39, .none) := by decide
theorem test_v44 : after (.hLenhi 0) (at_ .readingHeader 3 (len := 0x0011) (ck := (0x19, 0x22)))
    (fun t => (t.len, t.st, t.ckB, t.ev)) = some (17, .seekingSync1, 0x3B, .frameTooLarge) := by decide
theorem test_v52 : after (.pByte 0x30) (at_ .readingPayload (len := 3) (cnt := 2) (ck := (0x3B, 0x75)))
    (fun t => (Memory.read t.pbuf 2, t.cnt, t.ckA, t.ckB, t.st)) = some (some 0x30, 3, 0x6B, 0xE0, .readingChecksum) := by
  decide
theorem test_v54 : after (.pByte 0xB5) (at_ .readingPayload (len := 4) (ck := (0x17, 0x4B)))
    (fun t => (Memory.read t.pbuf 0, t.ckA, t.ckB, t.st)) = some (some 0xB5, 0xCC, 0x17, .readingPayload) := by decide
theorem test_v56 : after (.cA 0x2B) (at_ .readingChecksum (ck := (0x2A, 0xA5))) (fun t => (t.rxA, t.idx, t.ckA, t.ev))
    = some (0x2B, 1, 0x2A, .none) := by decide
theorem test_v61 : after .idle { at_ .seekingSync1 with ev := .frameOk } State.ev = some .none := by decide
theorem test_v62 : after .reset { at_ .readingPayload (len := 3) (cnt := 1) (dropped := 7) with pbuf := [(0, 0x10)] }
    (fun t => (t.st, t.cnt, t.dropped, Memory.read t.pbuf 0)) = some (.seekingSync1, 0, 0, some 0x10) := by decide
theorem test_v63 : tick (at_ .seekingSync1 (dropped := 2)) ⟨true, true, 0⟩ = .next (at_ .seekingSync1) := rfl

/-! ## The reference functions (V5, V7, V11, V17, V20, V22) -/

theorem test_v5 : fletcher8 [0xFF, 0xFF] = (0xFE, 0xFD) := by decide
theorem test_v7 : fletcher8 [1, 2, 3, 4, 5] = (0x0F, 0x23) := by decide
theorem test_v11 : encodeFrame 0x01 0x07 [0x10, 0x20, 0x30]
    = .ok [0xB5, 0x62, 0x01, 0x07, 0x03, 0x00, 0x10, 0x20, 0x30, 0x6B, 0xE0] := rfl
theorem test_v17 : decodeFrame [0xB5, 0x62, 0x01, 0x07, 0x03, 0x00, 0x10, 0x20, 0x30, 0x6B, 0xE0]
    = .ok ⟨0x01, 0x07, [0x10, 0x20, 0x30], by decide⟩ := rfl
theorem test_v20 : decodeFrame [0xB5, 0x62, 0x01] = .error .lengthExceedsBuffer := rfl
theorem test_v22 : decodeFrame [0xB5, 0x62, 0x01, 0x07, 0x03, 0x00, 0x10, 0x21, 0x30, 0x6B, 0xE0]
    = .error .checksumMismatch := rfl

/-! ## How the host places a word: step then runs it, right after reset -/

theorem test_fetch_s1_miss : ∃ t, step (State.reset.withFetchWord 16 0x2000) = .next t ∧ t.ev = .none := ⟨_, rfl, rfl⟩
theorem test_fetch_p_byte : ∃ t, step (State.reset.withFetchWord 16 0x2C7F) = .next t ∧ t.st = .readingChecksum :=
  ⟨_, rfl, rfl⟩

/-! ## Witnesses: hypotheses that can be met, clause by clause, at the ends of their ranges -/

/-- A block in the middle of frame F2's payload, after two of its three bytes. -/
def inPayload : State :=
  { at_ .readingPayload (len := 3) (cnt := 2) (ck := fletcher8 [0x01, 0x07, 0x03, 0x00, 0x10, 0x20]) with
    cls := 0x01, mid := 0x07, pbuf := [(0, 0x10), (1, 0x20)] }

/-- A block that expects the last byte of frame F2. -/
def atLastByte : State :=
  { at_ .readingChecksum 1 (len := 3) (cnt := 3) (ck := (0x6B, 0xE0)) (rxA := 0x6B) with
    cls := 0x01, mid := 0x07, pbuf := [(0, 0x10), (1, 0x20), (2, 0x30)] }

/-- A block in READING_HEADER with `idx` 3 that will find the length 17, one over `MAX_LEN`. -/
def atOversize : State :=
  { at_ .readingHeader 3 (len := 17) (ck := fletcher8 [0x01, 0x07, 0x11]) with cls := 0x01, mid := 0x07 }

/-- Rows 20 and 21 of program P2: H_LENLO leaves `cnt` 3 above `len` 0, against R105's last line (log 6). -/
theorem test_p2_row_21 : after (.hLenlo 0) (at_ .readingHeader 2 (len := 3) (cnt := 3) (ck := (0x2A, 0x51)))
    (fun t => (t.idx, t.cnt, t.len, decide t.countLine)) = some (3, 3, 0, false) := by decide

/-- Row 14 of program P2 (and V57): FRAME_OK, which denotes the frame (01, 07, 10 20 30) (R126). -/
theorem test_p2_row_14 : after (.cB 0xE0) atLastByte (fun t => (t.st, t.ev, t.deliveredFrame))
    = some (.seekingSync1, .frameOk, some ⟨0x01, 0x07, [0x10, 0x20, 0x30], by decide⟩) := by decide

/-- V58's case: `checksum_b` one off gives CK_MISMATCH, which denotes no frame (R126). -/
theorem test_mismatch_delivers_nothing : after (.cB 0xE1) atLastByte (fun t => (t.st, t.ev, t.deliveredFrame))
    = some (.seekingSync1, .ckMismatch, none) := by decide

theorem witness_S1HitHoldsCandidate :
    decodeKey (selectorKey (at_ .seekingSync1) (.byte 0xB5)) = some .s1Hit
    ∧ (at_ .seekingSync1).st = .seekingSync1 ∧ (at_ .seekingSync1).idx = 0 := by decide
theorem witness_S1MissDropsOne :
    decodeKey (selectorKey (at_ .seekingSync1) (.byte 0xB4)) = some (.s1Miss 0xB4)
    ∧ (at_ .seekingSync1).st = .seekingSync1 ∧ (at_ .seekingSync1).idx = 0 ∧ 0xB4#8 ≠ 0xB5#8 := by decide
theorem witness_S2HitOpensFrame :
    decodeKey (selectorKey (at_ .seekingSync2) (.byte 0x62)) = some .s2Hit
    ∧ (at_ .seekingSync2).st = .seekingSync2 ∧ (at_ .seekingSync2).idx = 0 := by decide
theorem witness_S2ResyncDropsOlder :
    decodeKey (selectorKey (at_ .seekingSync2) (.byte 0xB5)) = some .s2Resync
    ∧ (at_ .seekingSync2).st = .seekingSync2 ∧ (at_ .seekingSync2).idx = 0 := by decide
theorem witness_S2MissDropsTwo :
    decodeKey (selectorKey (at_ .seekingSync2) (.byte 0x63)) = some (.s2Miss 0x63)
    ∧ (at_ .seekingSync2).st = .seekingSync2 ∧ (at_ .seekingSync2).idx = 0 ∧ 0x63#8 ≠ 0x62#8 ∧ 0x63#8 ≠ 0xB5#8 := by
  decide
theorem witness_HClassTakesClass :
    decodeKey (selectorKey (at_ .readingHeader) (.byte 0xFF)) = some (.hClass 0xFF)
    ∧ (at_ .readingHeader).st = .readingHeader ∧ (at_ .readingHeader).idx = 0 := by decide
theorem witness_HIdTakesId :
    decodeKey (selectorKey (at_ .readingHeader 1) (.byte 0)) = some (.hId 0)
    ∧ (at_ .readingHeader 1).st = .readingHeader ∧ (at_ .readingHeader 1).idx = 1 := by decide
theorem witness_HLenloTakesLowByte :
    decodeKey (selectorKey (at_ .readingHeader 2) (.byte 0xFF)) = some (.hLenlo 0xFF)
    ∧ (at_ .readingHeader 2).st = .readingHeader ∧ (at_ .readingHeader 2).idx = 2 := by decide
/-- The length one over `MAX_LEN`, at `MAX_LEN`, and 0: the three branches. -/
theorem witness_HLenhiChecksLength :
    decodeKey (selectorKey atOversize (.byte 0)) = some (.hLenhi 0)
    ∧ (atOversize.st = .readingHeader ∧ atOversize.idx = 3 ∧ atOversize.len.toNat % 256 + 256 * 0 = 17)
    ∧ ((at_ .readingHeader 3 (len := 16)).len.toNat % 256 + 256 * 0 = (at_ .readingHeader 3).cfg.maxLen.val)
    ∧ (at_ .readingHeader 3).len.toNat % 256 + 256 * 0 = 0 := by decide
/-- The last byte of a payload, and the first of a payload of `MAX_LEN` bytes. -/
theorem witness_PByteStoresPayload :
    decodeKey (selectorKey inPayload (.byte 0x30)) = some (.pByte 0x30)
    ∧ (inPayload.st = .readingPayload ∧ inPayload.idx = 0 ∧ inPayload.cnt.toNat + 1 = inPayload.len.toNat
      ∧ inPayload.len.toNat ≤ inPayload.cfg.maxLen.val)
    ∧ (at_ .readingPayload (len := 16)).cnt.toNat < (at_ .readingPayload (len := 16)).len.toNat
    ∧ (at_ .readingPayload (len := 16)).len.toNat ≤ (at_ .readingPayload (len := 16)).cfg.maxLen.val := by decide
theorem witness_CAHoldsFirstByte :
    decodeKey (selectorKey (at_ .readingChecksum) (.byte 0x2A)) = some (.cA 0x2A)
    ∧ (at_ .readingChecksum).st = .readingChecksum ∧ (at_ .readingChecksum).idx = 0 := by decide
/-- Both verdicts: the byte that matches `ck_b`, and its neighbour. -/
theorem witness_CBGivesVerdict :
    decodeKey (selectorKey atLastByte (.byte 0xE0)) = some (.cB 0xE0)
    ∧ (atLastByte.st = .readingChecksum ∧ atLastByte.idx = 1)
    ∧ after (.cB 0xE0) atLastByte State.ev = some .frameOk
    ∧ after (.cB 0xE1) atLastByte State.ev = some .ckMismatch := by decide
theorem witness_IdleClearsEvent :
    decodeKey (selectorKey atLastByte ⟨false, false, 0xE0⟩) = some .idle := by decide
theorem witness_ResetRestoresRegisters :
    decodeKey (selectorKey atLastByte ⟨true, true, 0xE0⟩) = some .reset ∧ after .reset atLastByte State.len = some 0 := by
  decide
/-- Each of the five search operations has a next state. -/
theorem witness_SearchFrame :
    (after .s1Hit (at_ .seekingSync1) State.idx).isSome ∧ (after (.s1Miss 0) (at_ .seekingSync1) State.idx).isSome
    ∧ (after .s2Hit (at_ .seekingSync2) State.idx).isSome ∧ (after .s2Resync (at_ .seekingSync2) State.idx).isSome
    ∧ (after (.s2Miss 0) (at_ .seekingSync2) State.idx).isSome := by decide
/-- Each of the four header operations has a next state. -/
theorem witness_HeaderFrame :
    (after (.hClass 1) (at_ .readingHeader) State.idx).isSome ∧ (after (.hId 1) (at_ .readingHeader 1) State.idx).isSome
    ∧ (after (.hLenlo 1) (at_ .readingHeader 2) State.idx).isSome
    ∧ (after (.hLenhi 1) (at_ .readingHeader 3) State.idx).isSome := by decide
theorem witness_ChecksumAndSystemFrame :
    (after (.cA 1) (at_ .readingChecksum) State.idx).isSome ∧ (after (.cB 1) (at_ .readingChecksum 1) State.idx).isSome
    ∧ (after .idle inPayload State.idx).isSome ∧ (after .reset inPayload State.idx).isSome := by decide
/-- No input selects C_A in SEEKING_SYNC1. -/
theorem witness_UnselectedOperationsRefused :
    ∀ c : CycleInput, decodeKey (selectorKey (at_ .seekingSync1) c) ≠ some (.cA 0) := by
  rintro ⟨_ | _, _ | _, d⟩ <;>
    (rw [selectorKey_eq_append, decodeKey_append]; simp [keyControl, at_, State.resetOf, RxState.code]; try (split <;> simp))
/-- The clauses of U4 and R31, each in a state of its own. -/
theorem witness_UndefinedStatesStop :
    ((at_ .seekingSync1 1).st = .seekingSync1 ∧ (at_ .seekingSync1 1).idx ≠ 0 ∧ 0#8 ≠ 0xB5#8)
    ∧ ((at_ .seekingSync2 3).st = .seekingSync2 ∧ (at_ .seekingSync2 3).idx ≠ 0 ∧ 0#8 ≠ 0x62#8)
    ∧ (at_ .readingPayload 1 (len := 1)).idx ≠ 0
    ∧ (at_ .readingPayload (len := 3) (cnt := 3)).len.toNat ≤ (at_ .readingPayload (len := 3) (cnt := 3)).cnt.toNat
    ∧ ((at_ .readingPayload (len := 17) (cnt := 16)).cnt.toNat < (at_ .readingPayload (len := 17) (cnt := 16)).len.toNat
      ∧ (at_ .readingPayload (len := 17) (cnt := 16)).cfg.maxLen.val
        ≤ (at_ .readingPayload (len := 17) (cnt := 16)).cnt.toNat)
    ∧ (at_ .readingChecksum 2).st = .readingChecksum ∧ 2 ≤ (at_ .readingChecksum 2).idx.toNat := by decide
theorem witness_StepStopsAtEndOfInput : (at_ .seekingSync1).input = [] := rfl
theorem witness_StepRunsDecodedInstr :
    ({ inPayload with input := [.byte 0x30, .idle] } : State).input = .byte 0x30 :: [.idle]
    ∧ decodeKey (selectorKey { inPayload with input := [.byte 0x30, .idle] } (.byte 0x30)) = some (.pByte 0x30) := by
  decide
/-- At a byte next to the ones the rows exclude, and at a byte all ones. -/
theorem witness_DecodeEncodeRoundTrip :
    Instr.wf (.s1Miss 0xB4) = true ∧ Instr.wf (.s2Miss 0x63) = true ∧ Instr.wf (.cB 0xFF) = true := by decide
theorem witness_DecodedKeysReencode : decodeKey 0b0_1_011_11_11111111#15 = some (.pByte 0xFF) := by decide
theorem witness_ReservedKeysExactly :
    decodeKey 0b0_1_100_10_00000000#15 = none ∧ decodeKey 0b0_1_111_11_11111111#15 = none
    ∧ Reachable (State.resetOf ⟨16, 32⟩ []) := ⟨by decide, by decide, .reset _ _ (by decide)⟩
/-- The key of S1_HIT also matches S1_MISS, rows 2 and 3 from 0. -/
theorem witness_RowsOverlapOnlyInSearch :
    (2 < 3 ∧ (opTable[2]?).isSome ∧ (opTable[3]?).isSome)
    ∧ (opTable[2]?).map (fun r => r.selects 0x20B5) = some true
    ∧ (opTable[3]?).map (fun r => r.selects 0x20B5) = some true := by decide
/-- The highest cell of the buffer, and a P_BYTE. -/
theorem witness_ReadPortShowsPbuf :
    (0x000F#16).toNat < ({ at_ .seekingSync1 with pbuf := [(15, 0xAA)] } : State).cfg.maxLen.val
    ∧ Memory.read ({ at_ .seekingSync1 with pbuf := [(15, 0xAA)] } : State).pbuf (0x000F#16).toNat = some 0xAA
    ∧ (after (.pByte 0x30) inPayload State.cnt).isSome := by decide
theorem witness_OutputsShowRegisters :
    (at_ .seekingSync1 (dropped := 15) (dropW := 4)).dropped
      < 2 ^ (at_ .seekingSync1 (dropped := 15) (dropW := 4)).cfg.dropW := by decide
theorem witness_ResetIsSound : Config.wf ⟨0, 1⟩ ∧ Config.wf ⟨65535, 32⟩ := by decide

/-- `s` with a byte pending. -/
def pending (s : State) (v : Byte) : State := { s with input := [.byte v] }

/-- What `f` reads of the state after one step, if there is one. -/
def afterStep {α : Type} (s : State) (f : State → α) : Option α :=
  match step s with
  | .next t => some (f t)
  | .fault _ => none
  | .refused _ => none

theorem witness_StepKeepsStructure :
    (pending inPayload 0x30).structural ∧ (pending inPayload 0x30).dataOk
    ∧ afterStep (pending inPayload 0x30) State.st = some .readingChecksum := by decide
theorem witness_StepKeepsChecksum :
    (pending inPayload 0x30).sound ∧ afterStep (pending inPayload 0x30) State.cnt = some 3 := by decide
theorem witness_StructuralStatesNeverStop : atLastByte.structural ∧ atOversize.structural := by decide
theorem witness_ReachableStatesAreSound : Reachable (State.resetOf ⟨0, 1⟩ []) := .reset _ _ (by decide)
theorem witness_CountNeverExceedsLength : Reachable (State.resetOf ⟨16, 32⟩ []) := .reset _ _ (by decide)
/-- A reachable state, a P_BYTE that brings `cnt` to `len`, and an H_LENHI that aborts. -/
theorem witness_CountRisesOnlyToLength :
    Reachable (State.resetOf ⟨16, 32⟩ []) ∧ ¬ (State.resetOf ⟨16, 32⟩ []).betweenLengthBytes
    ∧ (inPayload.structural ∧ after (.pByte 0x30) inPayload State.cnt = some 3)
    ∧ atOversize.structural ∧ decodeKey (selectorKey atOversize (.byte 0)) = some (.hLenhi 0) :=
  ⟨.reset _ _ (by decide), by decide, by decide, by decide, by decide⟩
/-- A position of `MAX_LEN + 7` is reached. -/
theorem witness_FramePositionAdvances :
    (at_ .readingChecksum 1 (len := 16) (cnt := 16)).structural
    ∧ framePos (at_ .readingChecksum 1 (len := 16) (cnt := 16)) = 16 + 7 := by decide
theorem witness_ParametersNeverChange : afterStep (pending atLastByte 0xE0) State.ev = some .frameOk := by decide

/-- Both operations that signal, and five bytes after them. -/
theorem witness_EventsEndFramedRuns :
    afterStep (pending atOversize 0) State.ev = some .frameTooLarge
    ∧ afterStep (pending atLastByte 0xE1) State.ev = some .ckMismatch
    ∧ (at_ .seekingSync1).structural ∧ ([0xB5, 0x62, 0x01, 0x07, 0x11] : List Byte).length ≤ 5 := by decide
/-- A tick from a sound state that signals each of the three events. -/
theorem witness_EventRecordsDescriptor :
    atLastByte.sound ∧ atOversize.sound
    ∧ after (.cB 0xE0) atLastByte State.ev = some .frameOk ∧ after (.cB 0xE1) atLastByte State.ev = some .ckMismatch
    ∧ after (.hLenhi 0) atOversize State.ev = some .frameTooLarge :=
  ⟨by decide, by decide, by decide, by decide, by decide⟩
theorem witness_StreamingVerdictEqualsDecode :
    atLastByte.sound ∧ atLastByte.st = .readingChecksum ∧ atLastByte.idx = 1 := by decide
theorem witness_FrameOkProvesChecksum :
    atLastByte.sound ∧ ∃ t, tick atLastByte (.byte 0xE0) = .next t ∧ t.ev = .frameOk := ⟨by decide, _, rfl, rfl⟩
theorem witness_IdleCyclesAreInvisible : inPayload.structural := by decide
theorem witness_ByteAccounting :
    (at_ .seekingSync1).structural ∧ (at_ .seekingSync1).dataOk
    ∧ ∀ c ∈ [CycleInput.byte 0xB5, .idle, .byte 0x62], c.rst = false := by decide
/-- `MAX_LEN` 0, so six bytes. -/
theorem witness_SearchIsReachedAgain :
    (at_ .readingHeader (maxLen := 0)).structural
    ∧ ([0, 0, 0, 0, 0, 0] : List Byte).length = (at_ .readingHeader (maxLen := 0)).cfg.maxLen.val + 6 := by decide
/-- Garbage that ends in `B5`, and garbage that does not. -/
theorem witness_SearchIsStringMatcher :
    (at_ .seekingSync1).structural ∧ (at_ .seekingSync1).dataOk
    ∧ (noSyncPair [0x62, 0xB5] = true ∧ ([0x62, 0xB5] : List Byte).getLast? = some sync1)
    ∧ noSyncPair [0xB5, 0xB5, 0x62 ^^^ 1] = true ∧ ([0xB5, 0xB5, 0x62 ^^^ 1] : List Byte).getLast? ≠ some sync1 := by decide
/-- A frame that fits exactly, and one a byte too long. -/
theorem witness_StreamRoundTrip :
    ((at_ .seekingSync2 (maxLen := 1)).structural ∧ (at_ .seekingSync2 (maxLen := 1)).dataOk
      ∧ (at_ .seekingSync2 (maxLen := 1)).searching)
    ∧ ([0x10] : List Byte).length ≤ (at_ .seekingSync2 (maxLen := 1)).cfg.maxLen.val
    ∧ (at_ .seekingSync2 (maxLen := 1)).cfg.maxLen.val < ([0x10, 0x20] : List Byte).length
    ∧ (∃ bs, encodeFrame 1 7 [0x10] = .ok bs) ∧ ∃ bs, encodeFrame 1 7 [0x10, 0x20] = .ok bs :=
  ⟨by decide, by decide, by decide, ⟨_, rfl⟩, ⟨_, rfl⟩⟩
/-- Garbage that ends in `B5`, no garbage, a frame that fills the buffer, an empty one. -/
theorem witness_Resynchronisation :
    (Config.wf ⟨3, 32⟩ ∧ noSyncPair [0x00, 0xB5] = true ∧ noSyncPair [] = true)
    ∧ ([0x10, 0x20, 0x30] : List Byte).length ≤ (⟨3, 32⟩ : Config).maxLen.val
    ∧ (∃ f, encodeFrame 1 7 [0x10, 0x20, 0x30] = .ok f) ∧ ∃ f, encodeFrame 0x27 3 [] = .ok f :=
  ⟨by decide, by decide, ⟨_, rfl⟩, ⟨_, rfl⟩⟩
/-- All bytes of a poll but the last, with an idle cycle between. -/
theorem witness_PartialFramesAreHeld :
    ((at_ .seekingSync1).structural ∧ (∀ x ∈ CycleInput.idle :: [0xB5, 0x62, 0x27, 3, 0, 0, 0x2A].map CycleInput.byte,
      x.rst = false))
    ∧ (encodeFrame 0x27 3 [] = .ok [0xB5, 0x62, 0x27, 3, 0, 0, 0x2A, 0xA5])
    ∧ ((CycleInput.idle :: [0xB5, 0x62, 0x27, 3, 0, 0, 0x2A].map CycleInput.byte).filter fun x => x.inValid).map
        (fun x => x.inData) = ([0xB5, 0x62, 0x27, 3, 0, 0, 0x2A, 0xA5] : List Byte).take 7 := ⟨by decide, rfl, rfl⟩
theorem witness_SameFrameTwiceSameResult :
    (at_ .seekingSync1).structural ∧ (at_ .seekingSync1).dataOk ∧ (at_ .seekingSync1).st = .seekingSync1
    ∧ encodeFrame 0x27 3 [] = .ok [0xB5, 0x62, 0x27, 3, 0, 0, 0x2A, 0xA5] := ⟨by decide, by decide, rfl, rfl⟩
/-- At the last byte of each window. -/
theorem witness_StableWindows :
    (at_ .seekingSync1).structural ∧ ([0xB5] : List Byte).length ≤ 1
    ∧ ([0xB5, 0x62, 1, 7, 0, 0] : List Byte).length ≤ 6 + 0 := by decide
theorem witness_PbufNeverInfluencesRegisters : inPayload.structural := by decide
theorem witness_VerdictsIgnoreHistory :
    (at_ .seekingSync1).structural ∧ (at_ .seekingSync1 (len := 9) (ck := (1, 2)) (dropW := 1)).structural
    ∧ (at_ .seekingSync1).cfg.maxLen = (at_ .seekingSync1 (len := 9) (ck := (1, 2)) (dropW := 1)).cfg.maxLen := by decide
/-- The lengths on the two sides of the bound. -/
theorem witness_EncodeLaysOutFrame :
    (List.replicate 65535 (0 : Byte)).length ≤ 65535 ∧ 65535 < (List.replicate 65536 (0 : Byte)).length := by
  rw [List.length_replicate, List.length_replicate]; decide
theorem witness_CodecRoundTrip : (List.replicate 65535 (0 : Byte)).length ≤ 65535 := List.length_replicate.le
theorem witness_DecodeAcceptsExactlyFrames :
    decodeFrame [0xB5, 0x62, 0x01, 0x07, 0x00, 0x00, 0x08, 0x19, 0xAA] = .ok ⟨0x01, 0x07, [], by decide⟩ :=
  rfl
/-- A flip at each kind of offset; the length raised and the length lowered. -/
theorem witness_ChecksumSensitivity :
    encodeFrame 0x27 3 [0x2A] = .ok [0xB5, 0x62, 0x27, 3, 1, 0, 0x2A, 0x55, 0xFC]
    ∧ runLength [0xB5, 0x62, 0x27, 3, 1, 0, 0x2A, 0x55, 0xFC]
      < runLength (flipBit [0xB5, 0x62, 0x27, 3, 1, 0, 0x2A, 0x55, 0xFC] 5 7)
    ∧ runLength (flipBit [0xB5, 0x62, 0x27, 3, 1, 0, 0x2A, 0x55, 0xFC] 4 0)
      < runLength [0xB5, 0x62, 0x27, 3, 1, 0, 0x2A, 0x55, 0xFC] := ⟨rfl, by decide, by decide⟩

end Sys2Proof.Tests
end

/-! ## The pending inputs and the parameters (spec/00_scope.md R6, R8)

No operation reads or writes the inputs still to come, so a cycle commutes with exchanging them; no operation writes the
parameters. -/

namespace Sys2Proof.Machine

/-- `s` with `l` as the cycle inputs still to come. -/
def State.withInput (s : State) (l : List CycleInput) : State := { s with input := l }

@[simp] theorem State.withInput_input (s : State) (l : List CycleInput) : (s.withInput l).input = l := rfl

@[simp] theorem State.withInput_withInput (s : State) (l l' : List CycleInput) :
    (s.withInput l).withInput l' = s.withInput l' := rfl

@[simp] theorem State.withInput_self (s : State) : s.withInput s.input = s := rfl

/-- `f` on the next state of an outcome; a stop stays as it is. -/
def mapNext (f : State → State) : Host.Outcome State Fault Refusal → Host.Outcome State Fault Refusal
  | .next s => .next (f s)
  | .fault r => .fault r
  | .refused r => .refused r

@[simp] theorem mapNext_next (f : State → State) (s : State) : mapNext f (.next s) = .next (f s) := rfl

@[simp] theorem mapNext_fault (f : State → State) (r : Fault) : mapNext f (.fault r) = .fault r := rfl

@[simp] theorem mapNext_refused (f : State → State) (r : Refusal) : mapNext f (.refused r) = .refused r := rfl

theorem mapNext_ite (f : State → State) (p : Prop) [Decidable p] (o o' : Host.Outcome State Fault Refusal) :
    mapNext f (if p then o else o') = if p then mapNext f o else mapNext f o' := apply_ite _ _ _ _

@[simp] theorem mapNext_whenSelected (f : State → State) (sel : Prop) [Decidable sel]
    (o : Host.Outcome State Fault Refusal) : mapNext f (whenSelected sel o) = whenSelected sel (mapNext f o) :=
  mapNext_ite f sel o _

@[simp] theorem mapNext_whenDefined (f : State → State) (ok : Prop) [Decidable ok]
    (o : Host.Outcome State Fault Refusal) : mapNext f (whenDefined ok o) = whenDefined ok (mapNext f o) :=
  mapNext_ite f ok o _

/-! ### One operation -/

theorem exec_keeps_cfg_input {i : Instr} {s t : State} (h : exec i s = .next t) :
    t.cfg = s.cfg ∧ t.input = s.input := by
  cases i with
  | reset => obtain rfl := execReset_next.1 h; exact ⟨rfl, rfl⟩
  | idle => obtain rfl := execIdle_next.1 h; exact ⟨rfl, rfl⟩
  | s1Hit => obtain ⟨_, _, rfl⟩ := execS1Hit_next.1 h; exact ⟨rfl, rfl⟩
  | s1Miss v => obtain ⟨_, _, rfl⟩ := execS1Miss_next.1 h; exact ⟨rfl, rfl⟩
  | s2Hit => obtain ⟨_, _, rfl⟩ := execS2Hit_next.1 h; exact ⟨rfl, rfl⟩
  | s2Resync => obtain ⟨_, _, rfl⟩ := execS2Resync_next.1 h; exact ⟨rfl, rfl⟩
  | s2Miss v => obtain ⟨_, _, rfl⟩ := execS2Miss_next.1 h; exact ⟨rfl, rfl⟩
  | hClass v => obtain ⟨_, rfl⟩ := execHClass_next.1 h; exact ⟨rfl, rfl⟩
  | hId v => obtain ⟨_, rfl⟩ := execHId_next.1 h; exact ⟨rfl, rfl⟩
  | hLenlo v => obtain ⟨_, rfl⟩ := execHLenlo_next.1 h; exact ⟨rfl, rfl⟩
  | hLenhi v => obtain ⟨_, rfl⟩ := execHLenhi_next.1 h; exact ⟨rfl, rfl⟩
  | pByte v => obtain ⟨_, _, _, rfl⟩ := execPByte_next.1 h; exact ⟨rfl, rfl⟩
  | cA v => obtain ⟨_, rfl⟩ := execCA_next.1 h; exact ⟨rfl, rfl⟩
  | cB v => obtain ⟨_, rfl⟩ := execCB_next.1 h; exact ⟨rfl, rfl⟩

theorem execHLenhi_withInput (v : Byte) (s : State) (l : List CycleInput) :
    execHLenhi v (s.withInput l) = mapNext (State.withInput · l) (execHLenhi v s) := by
  simp only [execHLenhi, mapNext_whenSelected, mapNext_next, apply_ite (State.withInput · l)]
  rfl

theorem execPByte_withInput (v : Byte) (s : State) (l : List CycleInput) :
    execPByte v (s.withInput l) = mapNext (State.withInput · l) (execPByte v s) := by
  simp only [execPByte, mapNext_whenSelected, mapNext_whenDefined, mapNext_ite, mapNext_next, mapNext_fault,
    apply_ite (State.withInput · l)]
  rfl

/-- An operation does the same, or stops for the same reason, whatever is still to come. -/
theorem exec_withInput (i : Instr) (s : State) (l : List CycleInput) :
    exec i (s.withInput l) = mapNext (State.withInput · l) (exec i s) := by
  cases i with
  | reset | idle => rfl
  | s1Hit | s1Miss _ | s2Hit | s2Resync | s2Miss _ =>
    simp only [exec, execS1Hit, execS1Miss, execS2Hit, execS2Resync, execS2Miss, mapNext_whenSelected,
      mapNext_whenDefined]
    rfl
  | hClass _ | hId _ | hLenlo _ | cA _ | cB _ =>
    simp only [exec, execHClass, execHId, execHLenlo, execCA, execCB, mapNext_whenSelected]
    rfl
  | hLenhi v => exact execHLenhi_withInput v s l
  | pByte v => exact execPByte_withInput v s l

/-! ### One cycle -/

theorem tick_next {s t : State} {c : CycleInput} :
    tick s c = .next t ↔ ∃ i, decodeKey (selectorKey s c) = some i ∧ exec i s = .next t := by
  unfold tick
  cases decodeKey (selectorKey s c) <;> simp

theorem tick_keeps_cfg_input {s t : State} {c : CycleInput} (h : tick s c = .next t) :
    t.cfg = s.cfg ∧ t.input = s.input := by
  obtain ⟨i, _, hexec⟩ := tick_next.1 h
  exact exec_keeps_cfg_input hexec

theorem tick_withInput (s : State) (c : CycleInput) (l : List CycleInput) :
    tick (s.withInput l) c = mapNext (State.withInput · l) (tick s c) := by
  have hkey : selectorKey (s.withInput l) c = selectorKey s c := rfl
  unfold tick
  rw [hkey]
  cases decodeKey (selectorKey s c) with
  | none => rfl
  | some i => exact exec_withInput i s l

/-! ### One step of the host's machine -/

theorem step_withInput_cons (s : State) (c : CycleInput) (l : List CycleInput) :
    step (s.withInput (c :: l)) = tick (s.withInput l) c := rfl

theorem step_next {s t : State} :
    step s = .next t ↔ ∃ c l, s.input = c :: l ∧ tick (s.withInput l) c = .next t := by
  unfold step stepPending
  cases s.input <;> simp [State.withInput]

section AnyCore
variable {M : Host.Core} {s t : M.State}

theorem run_succ_of_next (k : Nat) (h : M.step s = .next t) : M.run (k + 1) s = M.run k t := by
  simp only [Host.Core.run, h]

theorem run_succ_of_fault {r : M.Fault} (k : Nat) (h : M.step s = .fault r) : M.run (k + 1) s = .fault r := by
  simp only [Host.Core.run, h]

theorem run_succ_of_refused {r : M.Refusal} (k : Nat) (h : M.step s = .refused r) :
    M.run (k + 1) s = .refused r := by
  simp only [Host.Core.run, h]

end AnyCore

/-- The host's run, with the model's own types for those `Sys2Proof.core` packs. -/
def hostRun (k : Nat) (s : State) : Host.Outcome State Fault Refusal := Host.Core.run Sys2Proof.core k s

theorem hostRun_zero (s : State) : hostRun 0 s = .next s := rfl

theorem hostRun_succ (k : Nat) (s : State) :
    hostRun (k + 1) s =
      match step s with
      | .next t => hostRun k t
      | .fault r => .fault r
      | .refused r => .refused r := by
  cases h : step s with
  | next t => exact run_succ_of_next (M := Sys2Proof.core) k h
  | fault r => exact run_succ_of_fault (M := Sys2Proof.core) k h
  | refused r => exact run_succ_of_refused (M := Sys2Proof.core) k h

/-- The pending inputs `cs` are taken one by one; `rest` stays pending throughout. -/
theorem hostRun_withInput_append (cs rest : List CycleInput) (s : State) :
    hostRun cs.length (s.withInput (cs ++ rest)) = runCycles cs (s.withInput rest) := by
  induction cs generalizing s with
  | nil => exact hostRun_zero _
  | cons c cs ih =>
    have hstep : step (s.withInput (c :: (cs ++ rest)))
        = mapNext (State.withInput · (cs ++ rest)) (tick (s.withInput rest) c) := by
      rw [step_withInput_cons, ← tick_withInput, State.withInput_withInput]
    rw [List.length_cons, List.cons_append, hostRun_succ, hstep, runCycles]
    cases htick : tick (s.withInput rest) c with
    | next t =>
      have hrest : t.withInput rest = t := by
        obtain ⟨_, hinput⟩ := tick_keeps_cfg_input htick
        rw [← State.withInput_input s rest, ← hinput, State.withInput_self]
      calc hostRun cs.length (t.withInput (cs ++ rest))
        _ = runCycles cs (t.withInput rest) := ih t
        _ = runCycles cs t := by rw [hrest]
    | fault r => rfl
    | refused r => rfl

/-! ### The obligations -/

/-- Settles O37: a step is a cycle on the first pending input, and no operation writes `cfg` or `input`. -/
theorem parametersNeverChange : Obligations.ParametersNeverChange := by
  intro s t h
  obtain ⟨c, l, hinput, htick⟩ := step_next.1 h
  obtain ⟨hcfg, hl⟩ := tick_keeps_cfg_input htick
  rw [State.withInput_input] at hl
  exact ⟨hcfg, c, by rw [hinput, hl]⟩

/-- Settles O42, by induction on the pending inputs: a cycle does the same whatever is still to come. -/
theorem hostRunIsFoldOfTick : Obligations.HostRunIsFoldOfTick :=
  fun cs rest s => hostRun_withInput_append cs rest s

end Sys2Proof.Machine

/-! ## The registers, the ports and the state after RESET (spec/10_state.md)

The operation a cycle selects as a case distinction on the registers (R100), and with it how an accepted byte moves the
frame position (R13). -/

namespace Sys2Proof.Machine

/-! ### The ports -/

theorem outputs_droppedO_toNat {s : State} (nth : Nat) (a : Word16) (h : s.dropped < 2 ^ s.cfg.dropW) :
    (outputs s nth a).droppedO.toNat = s.dropped := by
  rw [outputs, BitVec.toNat_ofNat, Nat.mod_eq_of_lt h]

/-- Settles O29: the two codes case by case; the count is not reduced where it fits; the other ports are the registers
themselves. -/
theorem outputsShowRegisters : Obligations.OutputsShowRegisters := by
  intro s nth a
  refine ⟨?state, ?ev, rfl, rfl, rfl, outputs_droppedO_toNat nth a, rfl, fun _ => rfl⟩
  case state =>
    change s.st.code.toNat = _
    cases s.st <;> rfl
  case ev =>
    change s.ev.code.toNat = _
    cases s.ev <;> rfl

/-! ### The state after RESET -/

@[simp] theorem State.resetOf_st (cfg : Config) (input : List CycleInput) :
    (State.resetOf cfg input).st = .seekingSync1 := rfl

theorem State.resetOf_structural (cfg : Config) (input : List CycleInput) : (State.resetOf cfg input).structural :=
  ⟨fun _ => rfl, by simp, by simp, .inr (.inl le_rfl)⟩

theorem State.resetOf_dataOk {cfg : Config} (input : List CycleInput) (h : cfg.wf) :
    (State.resetOf cfg input).dataOk :=
  ⟨h, Nat.two_pow_pos _, .nil, List.forall_mem_nil _⟩

/-- No frame is in progress, so R106 asks nothing. -/
theorem State.resetOf_checksumOk (cfg : Config) (input : List CycleInput) : (State.resetOf cfg input).checksumOk :=
  ⟨by simp, by simp⟩

theorem State.resetOf_sound {cfg : Config} (input : List CycleInput) (h : cfg.wf) : (State.resetOf cfg input).sound :=
  ⟨State.resetOf_structural cfg input, State.resetOf_dataOk input h, State.resetOf_checksumOk cfg input⟩

theorem Config.built_wf : Config.built.wf := Nat.succ_le_succ (Nat.zero_le _)

theorem State.reset_eq_resetOf : State.reset = State.resetOf Config.built [] := rfl

/-- Settles O30: `State.reset` is the reset state of the built parameters, which are legal. -/
theorem resetIsSound : Obligations.ResetIsSound :=
  ⟨fun _ input h => State.resetOf_sound input h, State.resetOf_sound [] Config.built_wf,
    Config.built, Config.built_wf, State.reset_eq_resetOf⟩

/-! ### The operation a cycle selects -/

theorem keyControl_and_rst (rst inValid : Bool) (st : BitVec 3) (idx : BitVec 2) :
    keyControl rst inValid st idx &&& 0x40 = 0x40 ↔ rst = true := by
  revert rst inValid st idx; decide

theorem keyControl_and_inValid (inValid : Bool) (st : BitVec 3) (idx : BitVec 2) :
    keyControl false inValid st idx &&& 0x60 = 0 ↔ inValid = false := by
  revert inValid st idx; decide

/-- The mask of the rows that leave `idx` free keeps `st`. -/
theorem keyControl_and_st (st : BitVec 3) (idx : BitVec 2) :
    keyControl false true st idx &&& 0x7C = keyControl false true st 0 := by
  revert st idx; decide

theorem keyControl_inj (st st' : BitVec 3) (idx idx' : BitVec 2) :
    keyControl false true st idx = keyControl false true st' idx' ↔ st = st' ∧ idx = idx' := by
  revert st st' idx idx'; decide

/-- The decoder on a byte cycle, by `st` and `idx`. -/
theorem decodeKey_byteKey (st : BitVec 3) (idx : BitVec 2) (d : Byte) :
    decodeKey (keyControl false true st idx ++ d : Key) =
      if st = 0 then (if d = sync1 then some .s1Hit else some (.s1Miss d))
      else if st = 1 then
        (if d = sync2 then some .s2Hit else if d = sync1 then some .s2Resync else some (.s2Miss d))
      else if st = 2 ∧ idx = 0 then some (.hClass d)
      else if st = 2 ∧ idx = 1 then some (.hId d)
      else if st = 2 ∧ idx = 2 then some (.hLenlo d)
      else if st = 2 ∧ idx = 3 then some (.hLenhi d)
      else if st = 3 then some (.pByte d)
      else if st = 4 ∧ idx = 0 then some (.cA d)
      else if st = 4 ∧ idx = 1 then some (.cB d)
      else none := by
  have hrows : (0x20 : BitVec 7) = keyControl false true 0 0 ∧ (0x24 : BitVec 7) = keyControl false true 1 0
      ∧ (0x28 : BitVec 7) = keyControl false true 2 0 ∧ (0x29 : BitVec 7) = keyControl false true 2 1
      ∧ (0x2A : BitVec 7) = keyControl false true 2 2 ∧ (0x2B : BitVec 7) = keyControl false true 2 3
      ∧ (0x2C : BitVec 7) = keyControl false true 3 0 ∧ (0x30 : BitVec 7) = keyControl false true 4 0
      ∧ (0x31 : BitVec 7) = keyControl false true 4 1 := by decide
  obtain ⟨h20, h24, h28, h29, h2A, h2B, h2C, h30, h31⟩ := hrows
  rw [decodeKey_append, if_neg (by rw [keyControl_and_rst]; exact Bool.false_ne_true),
    if_neg (by rw [keyControl_and_inValid]; exact Bool.noConfusion), keyControl_and_st,
    h20, h24, h28, h29, h2A, h2B, h2C, h30, h31]
  simp only [keyControl_inj, and_true]

theorem idx_cases (i : BitVec 2) : i = 0 ∨ i = 1 ∨ i = 2 ∨ i = 3 := by
  revert i; decide

/-- The table of R52 selects what the case distinction of R100 does. -/
theorem decodeKey_selectorKey (s : State) (c : CycleInput) : decodeKey (selectorKey s c) = dispatchByState s c := by
  obtain ⟨rst, inValid, d⟩ := c
  rw [selectorKey_eq_append]
  match rst, inValid with
  | true, _ =>
    rw [decodeKey_append, if_pos ((keyControl_and_rst _ _ _ _).2 rfl)]
    rfl
  | false, false =>
    rw [decodeKey_append, if_neg (by rw [keyControl_and_rst]; exact Bool.false_ne_true),
      if_pos ((keyControl_and_inValid _ _ _).2 rfl)]
    rfl
  | false, true =>
    rw [decodeKey_byteKey]
    cases hst : s.st with
    | seekingSync1 | seekingSync2 | readingPayload | readingChecksum => simp [dispatchByState, RxState.code, hst]
    | readingHeader =>
      obtain hidx | hidx | hidx | hidx := idx_cases s.idx <;> simp [dispatchByState, RxState.code, hst, hidx]

section Feed
variable {s : State} (v : Byte)

theorem feed_eq_exec {v : Byte} {i : Instr} (h : dispatchByState s (.byte v) = some i) : feed s v = exec i s := by
  rw [feed, tick, decodeKey_selectorKey, h]

theorem feed_seekingSync1 (hst : s.st = .seekingSync1) :
    feed s v = exec (if v = sync1 then .s1Hit else .s1Miss v) s := by
  refine feed_eq_exec ?_
  by_cases hv : v = sync1 <;> simp [dispatchByState, CycleInput.byte, hst, hv]

theorem feed_seekingSync2 (hst : s.st = .seekingSync2) :
    feed s v = exec (if v = sync2 then .s2Hit else if v = sync1 then .s2Resync else .s2Miss v) s := by
  refine feed_eq_exec ?_
  have hne : sync1 ≠ sync2 := by decide
  by_cases hv2 : v = sync2
  · simp [dispatchByState, CycleInput.byte, hst, hv2]
  · by_cases hv1 : v = sync1
    · simp [dispatchByState, CycleInput.byte, hst, hv1, hne]
    · simp [dispatchByState, CycleInput.byte, hst, hv1, hv2]

theorem feed_readingHeader (hst : s.st = .readingHeader) :
    feed s v = exec (if s.idx = 0 then .hClass v else if s.idx = 1 then .hId v
      else if s.idx = 2 then .hLenlo v else .hLenhi v) s :=
  feed_eq_exec (by simp [dispatchByState, CycleInput.byte, hst, apply_ite some])

theorem feed_readingPayload (hst : s.st = .readingPayload) : feed s v = exec (.pByte v) s :=
  feed_eq_exec (by simp [dispatchByState, CycleInput.byte, hst])

theorem feed_readingChecksum (hst : s.st = .readingChecksum) (hidx : s.idx.toNat ≤ 1) :
    feed s v = exec (if s.idx = 0 then .cA v else .cB v) s := by
  have hone : s.idx ≠ 0 → s.idx = 1 := by bv_omega
  refine feed_eq_exec ?_
  by_cases hzero : s.idx = 0
  · simp [dispatchByState, CycleInput.byte, hst, hzero]
  · simp [dispatchByState, CycleInput.byte, hst, hone hzero]

end Feed

/-! ### The frame position -/

section Position
variable {s t : State}

theorem framePos_seekingSync1 (h : s.st = .seekingSync1) : framePos s = 0 := by simp only [framePos, h]

theorem framePos_seekingSync2 (h : s.st = .seekingSync2) : framePos s = 1 := by simp only [framePos, h]

theorem framePos_readingHeader (h : s.st = .readingHeader) : framePos s = 2 + s.idx.toNat := by
  simp only [framePos, h]

theorem framePos_readingPayload (h : s.st = .readingPayload) : framePos s = 6 + s.cnt.toNat := by
  simp only [framePos, h]

theorem framePos_readingChecksum (h : s.st = .readingChecksum) :
    framePos s = 6 + s.len.toNat + s.idx.toNat := by
  simp only [framePos, h]

theorem framePos_le (h : s.structural) : framePos s ≤ s.cfg.maxLen.val + 7 := by
  obtain ⟨_, hchecksum, hpayload, _⟩ := h
  cases hst : s.st with
  | seekingSync1 => rw [framePos_seekingSync1 hst]; omega
  | seekingSync2 => rw [framePos_seekingSync2 hst]; omega
  | readingHeader => rw [framePos_readingHeader hst]; omega
  | readingPayload =>
    have ⟨hcnt, hlen⟩ := hpayload hst
    rw [framePos_readingPayload hst]; omega
  | readingChecksum =>
    have ⟨hidx, _, hlen⟩ := hchecksum hst
    rw [framePos_readingChecksum hst]; omega

/-- The position of `t` is one more than that of `s`, or one of the two of the search (R13). -/
abbrev PosAdvances (s t : State) : Prop := framePos t = framePos s + 1 ∨ framePos t = 0 ∨ framePos t = 1

/-- After H_LENHI, expected at offset 5, the position is 6, or the run was aborted (R83). -/
theorem posAdvances_lengthOutcome {maxLen : Nat} {l : Word16} (hpos : framePos s = 5)
    (hst : t.st = (lengthOutcome maxLen l).1) (hlen : t.len = l) (hcnt : t.cnt = 0) (hidx : t.idx = 0) :
    PosAdvances s t := by
  unfold lengthOutcome at hst
  split_ifs at hst with hbig hzero
  · exact .inr (.inl (framePos_seekingSync1 hst))
  · exact .inl (by rw [framePos_readingChecksum hst, hlen, hzero, hidx, hpos]; rfl)
  · exact .inl (by rw [framePos_readingPayload hst, hcnt, hpos]; rfl)

/-- After P_BYTE the position is that of the next payload byte or of the first checksum byte (R90). -/
theorem framePos_afterPayloadByte (hst : t.st = if s.cnt + 1 = s.len then .readingChecksum else .readingPayload)
    (hlen : t.len = s.len) (hcnt : t.cnt = s.cnt + 1) (hidx : t.idx = 0) (hlt : s.cnt.toNat < s.len.toNat) :
    framePos t = 6 + s.cnt.toNat + 1 := by
  have hsucc : (s.cnt + 1).toNat = s.cnt.toNat + 1 := by bv_omega
  split_ifs at hst with hlast
  · rw [framePos_readingChecksum hst, hlen, ← hlast, hsucc, hidx]; rfl
  · rw [framePos_readingPayload hst, hcnt, hsucc]; rfl

theorem posAdvances_seekingSync1 (v : Byte) (hst : s.st = .seekingSync1) (hidx : s.idx = 0) :
    ∃ t, feed s v = .next t ∧ PosAdvances s t := by
  rw [feed_seekingSync1 v hst]
  split_ifs with hv
  · exact ⟨_, execS1Hit_next.2 ⟨hst, hidx, rfl⟩, .inr (.inr (framePos_seekingSync2 rfl))⟩
  · exact ⟨_, execS1Miss_next.2 ⟨⟨hst, hv⟩, hidx, rfl⟩, .inr (.inl (framePos_seekingSync1 hst))⟩

theorem posAdvances_seekingSync2 (v : Byte) (hst : s.st = .seekingSync2) (hidx : s.idx = 0) :
    ∃ t, feed s v = .next t ∧ PosAdvances s t := by
  rw [feed_seekingSync2 v hst]
  split_ifs with hv2 hv1
  · exact ⟨_, execS2Hit_next.2 ⟨hst, hidx, rfl⟩, .inl (by rw [framePos_seekingSync2 hst]; rfl)⟩
  · exact ⟨_, execS2Resync_next.2 ⟨hst, hidx, rfl⟩, .inr (.inr (framePos_seekingSync2 hst))⟩
  · exact ⟨_, execS2Miss_next.2 ⟨⟨hst, hv2, hv1⟩, hidx, rfl⟩, .inr (.inl (framePos_seekingSync1 rfl))⟩

theorem posAdvances_readingHeader (v : Byte) (hst : s.st = .readingHeader) :
    ∃ t, feed s v = .next t ∧ PosAdvances s t := by
  rw [feed_readingHeader v hst]
  split_ifs with h0 h1 h2
  · exact ⟨_, execHClass_next.2 ⟨⟨hst, h0⟩, rfl⟩, .inl (by simp [framePos_readingHeader, hst, h0])⟩
  · exact ⟨_, execHId_next.2 ⟨⟨hst, h1⟩, rfl⟩, .inl (by simp [framePos_readingHeader, hst, h1])⟩
  · exact ⟨_, execHLenlo_next.2 ⟨⟨hst, h2⟩, rfl⟩, .inl (by simp [framePos_readingHeader, hst, h2])⟩
  · have h3 : s.idx = 3 := by bv_omega
    have hpos : framePos s = 5 := by rw [framePos_readingHeader hst, h3]; rfl
    exact ⟨_, execHLenhi_next.2 ⟨⟨hst, h3⟩, rfl⟩, posAdvances_lengthOutcome hpos rfl rfl rfl rfl⟩

theorem posAdvances_readingPayload (v : Byte) (hst : s.st = .readingPayload) (hidx : s.idx = 0)
    (hcnt : s.cnt.toNat < s.len.toNat) (hlen : s.len.toNat ≤ s.cfg.maxLen.val) :
    ∃ t, feed s v = .next t ∧ PosAdvances s t := by
  rw [feed_readingPayload v hst]
  refine ⟨_, execPByte_next.2 ⟨hst, ⟨hidx, hcnt⟩, hcnt.trans_le hlen, rfl⟩, .inl ?_⟩
  rw [framePos_readingPayload hst]
  exact framePos_afterPayloadByte rfl rfl rfl rfl hcnt

theorem posAdvances_readingChecksum (v : Byte) (hst : s.st = .readingChecksum) (hidx : s.idx.toNat ≤ 1) :
    ∃ t, feed s v = .next t ∧ PosAdvances s t := by
  rw [feed_readingChecksum v hst hidx]
  split_ifs with h0
  · exact ⟨_, execCA_next.2 ⟨⟨hst, h0⟩, rfl⟩, .inl (by simp [framePos_readingChecksum, hst, h0])⟩
  · have h1 : s.idx = 1 := by bv_omega
    exact ⟨_, execCB_next.2 ⟨⟨hst, h1⟩, rfl⟩, .inr (.inl (framePos_seekingSync1 rfl))⟩

end Position

/-- Settles O36, by the register `st`: what each state does with a byte, and where that leaves the position. -/
theorem framePositionAdvances : Obligations.FramePositionAdvances := by
  intro s v h
  refine ⟨framePos_le h, ?_⟩
  obtain ⟨hidx, hchecksum, hpayload, _⟩ := h
  cases hst : s.st with
  | seekingSync1 => exact posAdvances_seekingSync1 v hst (hidx (.inl hst))
  | seekingSync2 => exact posAdvances_seekingSync2 v hst (hidx (.inr (.inl hst)))
  | readingHeader => exact posAdvances_readingHeader v hst
  | readingPayload =>
    obtain ⟨hcnt, hlen⟩ := hpayload hst
    exact posAdvances_readingPayload v hst (hidx (.inr (.inr hst))) hcnt hlen
  | readingChecksum =>
    obtain ⟨hidx, _, _⟩ := hchecksum hst
    exact posAdvances_readingChecksum v hst hidx

end Sys2Proof.Machine

/-! ## The payload buffer and its read port (spec/20_memory.md)

The port shows one cell, so what a store does to the buffer decides what the port shows after P_BYTE. -/

namespace Sys2Proof.Machine

/-- The read port depends on the parameters and on the cell it addresses, and on nothing else of the state. -/
theorem readPort_congr {s t : State} {a : Word16} (nth : Nat) (hcfg : t.cfg = s.cfg)
    (hcell : Memory.read t.pbuf a.toNat = Memory.read s.pbuf a.toNat) : readPort t nth a = readPort s nth a := by
  rw [readPort, readPort, hcfg, hcell]

/-- P_BYTE stores its byte at the old `cnt`, a cell that exists (R90, R31). -/
theorem execPByte_pbuf {v : Byte} {s t : State} (h : exec (.pByte v) s = .next t) :
    s.cnt.toNat < s.cfg.maxLen.val ∧ t.pbuf = Memory.write s.pbuf s.cnt.toNat v := by
  obtain ⟨_, _, hlt, rfl⟩ := execPByte_next.1 h
  exact ⟨hlt, rfl⟩

/-- Settles O28: a written cell is shown; P_BYTE writes the cell at the old `cnt` and leaves the others, which different
addresses select. -/
theorem readPortShowsPbuf : Obligations.ReadPortShowsPbuf := by
  refine ⟨fun s nth a b ha hb => readPort_written ha hb nth, fun s t nth v h => ?_⟩
  obtain ⟨hcfg, _⟩ := exec_keeps_cfg_input h
  obtain ⟨hlt, hpbuf⟩ := execPByte_pbuf h
  refine ⟨?stored, fun a ha => ?other⟩
  case stored =>
    have hcell : Memory.read t.pbuf s.cnt.toNat = some v := by rw [hpbuf, Memory.read_write_same]
    exact readPort_written (hcfg ▸ hlt) hcell nth
  case other =>
    have hne : a.toNat ≠ s.cnt.toNat := mt BitVec.eq_of_toNat_eq ha
    exact readPort_congr nth hcfg (by rw [hpbuf, Memory.read_write_other _ _ hne])

end Sys2Proof.Machine

/-! ## The selector (spec/30_encoding.md R50 to R53)

A key is the pack of its five parts, and on a pack the decoder is a case distinction on them. Only READING_CHECKSUM with an
`idx` above 1 is a state of the registers that selects no row, and the structural invariant of R105 rules it out. -/

namespace Sys2Proof.Machine

/-! ### The parts of a key -/

theorem keyControl_parts (h : BitVec 7) :
    keyControl (h.getLsbD 6) (h.getLsbD 5) (h.extractLsb' 2 3) (h.extractLsb' 0 2) = h := by
  revert h; decide

theorem Key.exists_pack (k : Key) : ∃ rst inValid st idx d, k = Key.pack rst inValid st idx d := by
  obtain ⟨h, d, rfl⟩ := Key.exists_append k
  exact ⟨_, _, _, _, d, by rw [Key.pack_eq_append, keyControl_parts]⟩

section Parts
variable (rst inValid : Bool) (st : BitVec 3) (idx : BitVec 2) (d : Byte)

@[simp] theorem Key.rst_pack : Key.rst (Key.pack rst inValid st idx d) = rst := by
  rw [Key.pack_eq_append, Key.rst_append]
  revert rst inValid st idx; decide

@[simp] theorem Key.inValid_pack : Key.inValid (Key.pack rst inValid st idx d) = inValid := by
  rw [Key.pack_eq_append, Key.inValid_append]
  revert rst inValid st idx; decide

@[simp] theorem Key.stCode_pack : Key.stCode (Key.pack rst inValid st idx d) = st := by
  rw [Key.pack_eq_append, Key.stCode_append]
  revert rst inValid st idx; decide

@[simp] theorem Key.idx_pack : Key.idx (Key.pack rst inValid st idx d) = idx := by
  rw [Key.pack_eq_append, Key.idx_append]
  revert rst inValid st idx; decide

end Parts

theorem stCode_cases (st : BitVec 3) : st = 0 ∨ st = 1 ∨ st = 2 ∨ st = 3 ∨ st = 4 ∨ 5 ≤ st.toNat := by
  revert st; decide

/-! ### The decoder on a key's parts -/

section Decode
variable (inValid : Bool) (st : BitVec 3) (idx : BitVec 2) (d : Byte)

@[simp] theorem decodeKey_pack_reset : decodeKey (Key.pack true inValid st idx d) = some .reset := by
  rw [Key.pack_eq_append, decodeKey_append, if_pos ((keyControl_and_rst _ _ _ _).2 rfl)]

@[simp] theorem decodeKey_pack_idle : decodeKey (Key.pack false false st idx d) = some .idle := by
  rw [Key.pack_eq_append, decodeKey_append, if_neg (by rw [keyControl_and_rst]; exact Bool.false_ne_true),
    if_pos ((keyControl_and_inValid _ _ _).2 rfl)]

theorem decodeKey_pack_seekingSync1 :
    decodeKey (Key.pack false true 0 idx d) = some (if d = sync1 then .s1Hit else .s1Miss d) := by
  simp [Key.pack_eq_append, decodeKey_byteKey, apply_ite some]

theorem decodeKey_pack_seekingSync2 :
    decodeKey (Key.pack false true 1 idx d) =
      some (if d = sync2 then .s2Hit else if d = sync1 then .s2Resync else .s2Miss d) := by
  simp [Key.pack_eq_append, decodeKey_byteKey, apply_ite some]

theorem decodeKey_pack_readingHeader :
    decodeKey (Key.pack false true 2 idx d) =
      some (if idx = 0 then .hClass d else if idx = 1 then .hId d else if idx = 2 then .hLenlo d else .hLenhi d) := by
  rw [Key.pack_eq_append, decodeKey_byteKey]
  obtain rfl | rfl | rfl | rfl := idx_cases idx <;> simp

theorem decodeKey_pack_readingPayload :
    decodeKey (Key.pack false true 3 idx d) = some (.pByte d) := by
  simp [Key.pack_eq_append, decodeKey_byteKey]

theorem decodeKey_pack_readingChecksum :
    decodeKey (Key.pack false true 4 idx d) =
      if idx = 0 then some (.cA d) else if idx = 1 then some (.cB d) else none := by
  simp [Key.pack_eq_append, decodeKey_byteKey]

/-- The codes of `st` that stand for no state (R11) are reserved (R53). -/
theorem decodeKey_pack_of_five_le {st : BitVec 3} (h : 5 ≤ st.toNat) :
    decodeKey (Key.pack false true st idx d) = none := by
  have hne : st ≠ 0#3 ∧ st ≠ 1#3 ∧ st ≠ 2#3 ∧ st ≠ 3#3 ∧ st ≠ 4#3 := by
    revert st; decide
  simp [Key.pack_eq_append, decodeKey_byteKey, hne]

end Decode

/-! ### Decoding an encoding -/

theorem wf_s1Miss {v : Byte} : (Instr.s1Miss v).wf = true ↔ v ≠ sync1 := bne_iff_ne

theorem wf_s2Miss {v : Byte} : (Instr.s2Miss v).wf = true ↔ v ≠ sync2 ∧ v ≠ sync1 := by
  simp [Instr.wf, sync1, sync2]

/-- A key fits in a table word of 16 bits (R50). -/
theorem decodeTableWord_toNat (k : Key) : decodeTableWord 16 k.toNat = decodeKey k := by
  have hlt := k.isLt
  have hmod : k.toNat % 2 ^ 16 = k.toNat := Nat.mod_eq_of_lt (by omega)
  rw [decodeTableWord, hmod, if_pos hlt, BitVec.ofNat_toNat, BitVec.setWidth_eq]

theorem decodeKey_encode {i : Instr} (h : i.wf = true) : decodeKey (encode i) = some i := by
  cases i with
  | reset => exact decodeKey_pack_reset _ _ _ _
  | idle => exact decodeKey_pack_idle _ _ _
  | s1Hit => exact decodeKey_pack_seekingSync1 _ _
  | s1Miss v => rw [encode, decodeKey_pack_seekingSync1, if_neg (wf_s1Miss.1 h)]
  | s2Hit => exact decodeKey_pack_seekingSync2 _ _
  | s2Resync => exact decodeKey_pack_seekingSync2 _ _
  | s2Miss v =>
    obtain ⟨hne2, hne1⟩ := wf_s2Miss.1 h
    rw [encode, decodeKey_pack_seekingSync2, if_neg hne2, if_neg hne1]
  | hClass v | hId v | hLenlo v | hLenhi v => exact decodeKey_pack_readingHeader _ _
  | pByte v => exact decodeKey_pack_readingPayload _ _
  | cA v | cB v => exact decodeKey_pack_readingChecksum _ _

/-- Settles O23: the decoder on the parts that the encoder packs, operation by operation. -/
theorem decodeEncodeRoundTrip : Obligations.DecodeEncodeRoundTrip := by
  intro i h
  rw [decodeTableWord_toNat]
  exact ⟨decodeKey_encode h, decodeKey_encode h⟩

/-! ### Encoding what a key decodes to -/

/-- The mask of an operation that uses `in_data` but not `idx` takes `idx` for 0. -/
theorem Key.pack_and_withoutIdx (st : BitVec 3) (idx : BitVec 2) (d : Byte) :
    Key.pack false true st idx d &&& 0x7CFF#15 = Key.pack false true st 0 d := by
  have hmask : 0x7CFF#15 = ((0x7C : BitVec 7) ++ BitVec.allOnes 8 : Key) := by decide
  rw [Key.pack_eq_append, hmask, BitVec.and_append, keyControl_and_st, BitVec.and_allOnes]
  rfl

theorem Key.pack_and_rst (inValid : Bool) (st : BitVec 3) (idx : BitVec 2) (d : Byte) :
    Key.pack true inValid st idx d &&& 0x4000#15 = 0x4000#15 := by
  have hcontrol := (keyControl_and_rst true inValid st idx).2 rfl
  rw [Key.pack_eq_append, show 0x4000#15 = ((0x40 : BitVec 7) ++ 0#8 : Key) by decide, control_and_mask, hcontrol]

theorem Key.pack_and_idle (st : BitVec 3) (idx : BitVec 2) (d : Byte) :
    Key.pack false false st idx d &&& 0x6000#15 = 0 := by
  have hcontrol := (keyControl_and_inValid false st idx).2 rfl
  rw [Key.pack_eq_append, show 0x6000#15 = ((0x60 : BitVec 7) ++ 0#8 : Key) by decide, control_and_mask, hcontrol]
  rfl

/-- `i` is well-formed, and its key is `k` on every bit that means something for it (R51, R52). -/
def Reencodes (k : Key) (i : Instr) : Prop := i.wf = true ∧ encode i &&& usedMask i = k &&& usedMask i

/-- Where every part of the key is used or encoded as 0, the key is the encoding. -/
theorem reencodes_encode {i : Instr} (h : i.wf = true) : Reencodes (encode i) i := ⟨h, rfl⟩

/-- In the search and in READING_PAYLOAD the key is the encoding but for `idx`. -/
theorem reencodes_withoutIdx {i : Instr} {st : BitVec 3} {d : Byte} (idx : BitVec 2) (hwf : i.wf = true)
    (hmask : usedMask i = 0x7CFF#15) (hkey : encode i = Key.pack false true st 0 d) :
    Reencodes (Key.pack false true st idx d) i :=
  ⟨hwf, by rw [hmask, hkey, Key.pack_and_withoutIdx, Key.pack_and_withoutIdx]⟩

theorem reencodes_of_decodeKey_byte {st : BitVec 3} {idx : BitVec 2} {d : Byte} {i : Instr}
    (h : decodeKey (Key.pack false true st idx d) = some i) : Reencodes (Key.pack false true st idx d) i := by
  obtain rfl | rfl | rfl | rfl | rfl | hst := stCode_cases st
  · rw [decodeKey_pack_seekingSync1, Option.some_inj] at h
    split_ifs at h with h1 <;> subst h
    · exact reencodes_withoutIdx idx rfl rfl (h1 ▸ rfl)
    · exact reencodes_withoutIdx idx (wf_s1Miss.2 h1) rfl rfl
  · rw [decodeKey_pack_seekingSync2, Option.some_inj] at h
    split_ifs at h with h2 h1 <;> subst h
    · exact reencodes_withoutIdx idx rfl rfl (h2 ▸ rfl)
    · exact reencodes_withoutIdx idx rfl rfl (h1 ▸ rfl)
    · exact reencodes_withoutIdx idx (wf_s2Miss.2 ⟨h2, h1⟩) rfl rfl
  · rw [decodeKey_pack_readingHeader, Option.some_inj] at h
    obtain rfl | rfl | rfl | rfl := idx_cases idx <;> subst h <;> exact reencodes_encode rfl
  · rw [decodeKey_pack_readingPayload, Option.some_inj] at h
    subst h
    exact reencodes_withoutIdx idx rfl rfl rfl
  · rw [decodeKey_pack_readingChecksum] at h
    split_ifs at h with h0 h1 <;> obtain rfl := Option.some.inj h
    · exact h0 ▸ reencodes_encode rfl
    · exact h1 ▸ reencodes_encode rfl
  · rw [decodeKey_pack_of_five_le idx d hst] at h
    cases h

theorem reencodes_of_decodeKey {k : Key} {i : Instr} (h : decodeKey k = some i) : Reencodes k i := by
  obtain ⟨rst, inValid, st, idx, d, rfl⟩ := Key.exists_pack k
  match rst, inValid with
  | true, _ =>
    obtain rfl := Option.some.inj ((decodeKey_pack_reset ..).symm.trans h)
    exact ⟨rfl, (Key.pack_and_rst ..).symm⟩
  | false, false =>
    obtain rfl := Option.some.inj ((decodeKey_pack_idle ..).symm.trans h)
    exact ⟨rfl, (Key.pack_and_idle ..).symm⟩
  | false, true => exact reencodes_of_decodeKey_byte h

/-- Settles O24, by the parts of the key. -/
theorem decodedKeysReencode : Obligations.DecodedKeysReencode := fun _ _ h => reencodes_of_decodeKey h

/-! ### The structural invariant of R105 -/

section Structural
variable {s t : State}

theorem countLine_of_st_ne (h : s.structural) (hst : s.st ≠ .readingHeader) : s.countLine := by
  obtain ⟨_, _, _, hcount⟩ := h
  exact hcount.resolve_left fun ⟨hhead, _⟩ => hst hhead

theorem countLine_of_idx_ne (h : s.structural) (hidx : s.idx ≠ 3) : s.countLine := by
  obtain ⟨_, _, _, hcount⟩ := h
  exact hcount.resolve_left fun ⟨_, h3⟩ => hidx h3

theorem structural_of_searching (hst : s.searching) (hidx : s.idx = 0) (hcount : s.countLine) : s.structural := by
  obtain hst | hst := hst <;> exact ⟨fun _ => hidx, by simp [hst], by simp [hst], .inr hcount⟩

theorem structural_of_readingHeader (hst : s.st = .readingHeader) (hcount : s.betweenLengthBytes ∨ s.countLine) :
    s.structural :=
  ⟨by simp [hst], by simp [hst], by simp [hst], hcount⟩

theorem structural_of_readingPayload (hst : s.st = .readingPayload) (hidx : s.idx = 0)
    (hcnt : s.cnt.toNat < s.len.toNat) (hlen : s.len.toNat ≤ s.cfg.maxLen.val) : s.structural :=
  ⟨fun _ => hidx, by simp [hst], fun _ => ⟨hcnt, hlen⟩, .inr (.inl hcnt.le)⟩

theorem structural_of_readingChecksum (hst : s.st = .readingChecksum) (hidx : s.idx.toNat ≤ 1)
    (hcnt : s.cnt = s.len) (hlen : s.len.toNat ≤ s.cfg.maxLen.val) : s.structural :=
  ⟨by simp [hst], fun _ => ⟨hidx, hcnt, hlen⟩, by simp [hst], .inr (.inl (by rw [hcnt]))⟩

/-- What H_LENHI leaves is sound in form for every length (R83). -/
theorem structural_of_lengthOutcome (hst : t.st = (lengthOutcome t.cfg.maxLen.val t.len).1) (hcnt : t.cnt = 0)
    (hidx : t.idx = 0) : t.structural := by
  unfold lengthOutcome at hst
  split_ifs at hst with hbig hzero
  · exact structural_of_searching (.inl hst) hidx (.inr hbig)
  · exact structural_of_readingChecksum hst (by simp [hidx]) (by rw [hcnt, hzero]) (not_lt.1 hbig)
  · have hpos : 0 < t.len.toNat := by bv_omega
    exact structural_of_readingPayload hst hidx (by simpa [hcnt] using hpos) (not_lt.1 hbig)

/-- What P_BYTE leaves is sound in form: `cnt` stays below `len`, or reaches it and the checksum is next (R90). -/
theorem structural_of_afterPayloadByte
    (hst : t.st = if s.cnt + 1 = s.len then .readingChecksum else .readingPayload) (hidx : t.idx = 0)
    (hcnt : t.cnt = s.cnt + 1) (hlen : t.len = s.len) (hlt : s.cnt.toNat < s.len.toNat)
    (hmax : t.len.toNat ≤ t.cfg.maxLen.val) : t.structural := by
  split_ifs at hst with hlast
  · exact structural_of_readingChecksum hst (by simp [hidx]) (by rw [hcnt, hlast, hlen]) hmax
  · have hnext : t.cnt.toNat < t.len.toNat := by rw [hcnt, hlen]; bv_omega
    exact structural_of_readingPayload hst hidx hnext hmax

theorem exec_keeps_structural {i : Instr} (h : s.structural) (hexec : exec i s = .next t) : t.structural := by
  have ⟨_, hchecksum, hpayload, _⟩ := h
  have hcountSt := countLine_of_st_ne h
  have hcountIdx := countLine_of_idx_ne h
  cases i with
  | reset => obtain rfl := execReset_next.1 hexec; exact structural_of_searching (.inl rfl) rfl (.inl le_rfl)
  | idle => obtain rfl := execIdle_next.1 hexec; exact h
  | s1Hit =>
    obtain ⟨hst, hidx, rfl⟩ := execS1Hit_next.1 hexec
    exact structural_of_searching (.inr rfl) hidx (hcountSt (by simp [hst]))
  | s1Miss v =>
    obtain ⟨⟨hst, _⟩, hidx, rfl⟩ := execS1Miss_next.1 hexec
    exact structural_of_searching (.inl hst) hidx (hcountSt (by simp [hst]))
  | s2Hit =>
    obtain ⟨hst, _, rfl⟩ := execS2Hit_next.1 hexec
    exact structural_of_readingHeader rfl (.inr (hcountSt (by simp [hst])))
  | s2Resync =>
    obtain ⟨hst, hidx, rfl⟩ := execS2Resync_next.1 hexec
    exact structural_of_searching (.inr hst) hidx (hcountSt (by simp [hst]))
  | s2Miss v =>
    obtain ⟨⟨hst, _⟩, hidx, rfl⟩ := execS2Miss_next.1 hexec
    exact structural_of_searching (.inl rfl) hidx (hcountSt (by simp [hst]))
  | hClass v =>
    obtain ⟨⟨hst, hidx⟩, rfl⟩ := execHClass_next.1 hexec
    exact structural_of_readingHeader hst (.inr (hcountIdx (by simp [hidx])))
  | hId v =>
    obtain ⟨⟨hst, hidx⟩, rfl⟩ := execHId_next.1 hexec
    exact structural_of_readingHeader hst (.inr (hcountIdx (by simp [hidx])))
  | hLenlo v =>
    obtain ⟨⟨hst, _⟩, rfl⟩ := execHLenlo_next.1 hexec
    exact structural_of_readingHeader hst (.inl ⟨hst, rfl⟩)
  | hLenhi v =>
    obtain ⟨_, rfl⟩ := execHLenhi_next.1 hexec
    exact structural_of_lengthOutcome rfl rfl rfl
  | pByte v =>
    obtain ⟨hst, ⟨_, hlt⟩, _, rfl⟩ := execPByte_next.1 hexec
    obtain ⟨_, hmax⟩ := hpayload hst
    exact structural_of_afterPayloadByte rfl rfl rfl rfl hlt hmax
  | cA v =>
    obtain ⟨⟨hst, _⟩, rfl⟩ := execCA_next.1 hexec
    obtain ⟨_, hcnt, hmax⟩ := hchecksum hst
    exact structural_of_readingChecksum hst le_rfl hcnt hmax
  | cB v =>
    obtain ⟨⟨hst, _⟩, rfl⟩ := execCB_next.1 hexec
    exact structural_of_searching (.inl rfl) rfl (hcountSt (by simp [hst]))

end Structural

/-- What RESET leaves and every operation keeps holds of every reachable state. -/
theorem Reachable.invariant {P : State → Prop} (hreset : ∀ cfg input, cfg.wf → P (State.resetOf cfg input))
    (hexec : ∀ i s t, P s → exec i s = .next t → P t) {s : State} (h : Reachable s) : P s := by
  induction h with
  | reset cfg input hcfg => exact hreset cfg input hcfg
  | tick s t c _ htick ih =>
    obtain ⟨i, _, hi⟩ := tick_next.1 htick
    exact hexec i s t ih hi

theorem Reachable.structural {s : State} (h : Reachable s) : s.structural :=
  h.invariant (fun cfg input _ => State.resetOf_structural cfg input) fun _ _ _ hs => exec_keeps_structural hs

/-! ### The reserved keys -/

theorem decodeKey_byte_eq_none {st : BitVec 3} {idx : BitVec 2} {d : Byte} :
    decodeKey (Key.pack false true st idx d) = none ↔ 5 ≤ st.toNat ∨ st = 4 ∧ 2 ≤ idx.toNat := by
  obtain rfl | rfl | rfl | rfl | rfl | hst := stCode_cases st
  · rw [decodeKey_pack_seekingSync1]; simp
  · rw [decodeKey_pack_seekingSync2]; simp
  · rw [decodeKey_pack_readingHeader]; simp
  · rw [decodeKey_pack_readingPayload]; simp
  · rw [decodeKey_pack_readingChecksum]
    obtain rfl | rfl | rfl | rfl := idx_cases idx <;> simp
  · simp [decodeKey_pack_of_five_le idx d hst, hst]

theorem decodeKey_eq_none {k : Key} :
    decodeKey k = none ↔
      k.rst = false ∧ k.inValid = true ∧ (5 ≤ k.stCode.toNat ∨ k.stCode = 4 ∧ 2 ≤ k.idx.toNat) := by
  obtain ⟨rst, inValid, st, idx, d, rfl⟩ := Key.exists_pack k
  match rst, inValid with
  | true, _ => simp
  | false, false => simp
  | false, true => simp [decodeKey_byte_eq_none]

/-- No state has a code above 4, and READING_CHECKSUM has no `idx` above 1. -/
theorem decodeKey_selectorKey_ne_none {s : State} (h : s.structural) (c : CycleInput) :
    decodeKey (selectorKey s c) ≠ none := by
  obtain ⟨_, hchecksum, _, _⟩ := h
  rw [selectorKey, Ne, decodeKey_eq_none, Key.stCode_pack, Key.idx_pack]
  rintro ⟨_, _, hcode | ⟨hcode, hidx⟩⟩
  · cases hst : s.st <;> simp [hst, RxState.code] at hcode
  · cases hst : s.st <;> simp [hst, RxState.code] at hcode
    obtain ⟨hle, _⟩ := hchecksum hst
    omega

/-- Settles O25: the keys by their parts; a reachable state is structural. -/
theorem reservedKeysExactly : Obligations.ReservedKeysExactly :=
  ⟨fun _ => decodeKey_eq_none, fun _ c h => decodeKey_selectorKey_ne_none h.structural c⟩

/-- Settles O26: on a cycle's key the rows read the parts that R100 distinguishes. -/
theorem tableAgreesWithDispatch : Obligations.TableAgreesWithDispatch := decodeKey_selectorKey

/-! ### The order of the rows -/

theorem OpRow.selects_iff {r : OpRow} {k : Key} : r.selects k = true ↔ k &&& r.mask = r.pattern := beq_iff_eq

/-- Two rows that one key matches agree on the bits that both compare. -/
theorem OpRow.patterns_agree {r r' : OpRow} {k : Key} (h : r.selects k = true) (h' : r'.selects k = true) :
    r.pattern &&& r'.mask = r'.pattern &&& r.mask := by
  rw [OpRow.selects_iff] at h h'
  calc r.pattern &&& r'.mask
    _ = k &&& r.mask &&& r'.mask := by rw [h]
    _ = k &&& r'.mask &&& r.mask := by ac_rfl
    _ = r'.pattern &&& r.mask := by rw [h']

/-- The pairs of rows, in the table's order, that agree where both compare. -/
theorem opTable_pairwise : opTable.Pairwise fun r r' =>
    r.pattern &&& r'.mask = r'.pattern &&& r.mask →
      (r.mnemonic, r'.mnemonic) ∈ [("S1_HIT", "S1_MISS"), ("S2_HIT", "S2_MISS"), ("S2_RESYNC", "S2_MISS")] := by
  decide

/-- Settles O27: rows with a common key agree where both compare, and the table has only three such pairs. -/
theorem rowsOverlapOnlyInSearch : Obligations.RowsOverlapOnlyInSearch := by
  intro k i j ri rj hij hi hj hki hkj
  obtain ⟨hilt, rfl⟩ := List.getElem?_eq_some_iff.1 hi
  obtain ⟨hjlt, rfl⟩ := List.getElem?_eq_some_iff.1 hj
  exact List.pairwise_iff_getElem.1 opTable_pairwise i j hilt hjlt hij (OpRow.patterns_agree hki hkj)

/-! ### The step and the samples -/

theorem tick_eq_exec {s : State} {c : CycleInput} {i : Instr} (h : decodeKey (selectorKey s c) = some i) :
    tick s c = exec i s := by
  rw [tick, h]

theorem step_of_input_cons {s : State} {c : CycleInput} {l : List CycleInput} (h : s.input = c :: l) :
    step s = tick (s.withInput l) c := by
  rw [← State.withInput_self s, h, step_withInput_cons, State.withInput_withInput]

/-- Settles O21: the pending inputs are no part of the key, and what a key selects is well-formed. -/
theorem stepRunsDecodedInstr : Obligations.StepRunsDecodedInstr := by
  intro s c rest i hinput hkey
  obtain ⟨hwf, _⟩ := reencodes_of_decodeKey hkey
  have hkeyRest : decodeKey (selectorKey (s.withInput rest) c) = some i := hkey
  exact ⟨hwf, (step_of_input_cons hinput).trans (tick_eq_exec hkeyRest)⟩

/-- Settles O22, by running the decoder on the nine keys. -/
theorem sampleKeysDecode : Obligations.SampleKeysDecode := by
  unfold Obligations.SampleKeysDecode
  decide

end Sys2Proof.Machine

/-! ## The reference functions (spec/40_fletcher_codec.md)

A byte run that passes `decode`'s tests on the markers and the length is cut in one way: the sync pair, the covered bytes,
two checksum bytes, the rest. On a run so cut `encode` and `decode` are compared by its checksum bytes alone. -/

namespace Sys2Proof.Machine

/-! ### The checksum's closed form (R60) -/

/-- The sum of the bytes, not reduced. -/
def byteSum (s : List Byte) : Nat := (s.map fun v => v.toNat).sum

/-- The sum of `(n - i) * s[i]` over the `n` bytes, not reduced. -/
def weightedSum (s : List Byte) : Nat := (s.zipIdx.map fun vi => (s.length - vi.2) * vi.1.toNat).sum

theorem byteSum_append_singleton (s : List Byte) (v : Byte) : byteSum (s ++ [v]) = byteSum s + v.toNat := by
  simp [byteSum]

/-- A further byte raises every earlier byte's weight by one and has weight one itself. -/
theorem weightedSum_append_singleton (s : List Byte) (v : Byte) :
    weightedSum (s ++ [v]) = weightedSum s + (byteSum s + v.toNat) := by
  have hweight : ∀ vi ∈ s.zipIdx,
      (s.length + 1 - vi.2) * vi.1.toNat = (s.length - vi.2) * vi.1.toNat + vi.1.toNat := by
    intro vi hvi
    obtain ⟨-, hlt, -⟩ := List.mem_zipIdx hvi
    rw [← Nat.succ_mul]
    congr 1
    omega
  have hfst : (s.zipIdx.map fun vi => vi.1.toNat) = s.map fun v => v.toNat := by
    rw [← Function.comp_def BitVec.toNat Prod.fst, ← List.map_map, List.zipIdx_map_fst]
  simp only [weightedSum, byteSum, List.zipIdx_append, List.map_append, List.sum_append, List.length_append,
    List.length_singleton, List.map_congr_left hweight, List.sum_map_add, hfst]
  simp [Nat.add_assoc]

theorem fletcher8_toNat (s : List Byte) :
    (fletcher8 s).1.toNat = byteSum s % 256 ∧ (fletcher8 s).2.toNat = weightedSum s % 256 := by
  induction s using List.reverseRecOn with
  | nil => exact ⟨rfl, rfl⟩
  | append_singleton s v ih =>
    obtain ⟨iha, ihb⟩ := ih
    obtain ⟨ha, hb⟩ := fletcherStep_toNat (fletcher8 s) v
    rw [fletcher8_append_singleton, byteSum_append_singleton, weightedSum_append_singleton, ha, hb, iha, ihb]
    omega

/-- Settles O55, by induction on the sequence from its end, with the append law. -/
theorem fletcherClosedForm : Obligations.FletcherClosedForm := fletcher8_toNat

/-! ### A byte run with a header, a payload and a checksum (R48) -/

/-- The sync pair, the covered bytes of a frame, two bytes in the checksum's place, and what follows. -/
def framed (c i : Byte) (p : List Byte) (ck : Byte × Byte) (tail : List Byte) : List Byte :=
  [sync1, sync2] ++ coveredBytes c i p ++ [ck.1, ck.2] ++ tail

/-- Two bytes are the little-endian length bytes of the number they denote. -/
theorem lengthBytes_of_toNat (lo hi : Byte) :
    BitVec.ofNat 8 ((lo.toNat + 256 * hi.toNat) % 256) = lo ∧ BitVec.ofNat 8 ((lo.toNat + 256 * hi.toNat) / 256) = hi := by
  constructor <;> bv_omega

section Framed
variable (c i : Byte) (p : List Byte) (ck : Byte × Byte) (tail : List Byte)

theorem framed_append (tail' : List Byte) : framed c i p ck tail ++ tail' = framed c i p ck (tail ++ tail') :=
  List.append_assoc ..

@[simp] theorem framed_length : (framed c i p ck tail).length = p.length + 8 + tail.length := by
  simp only [framed, List.length_append, List.length_cons, List.length_nil, coveredBytes_length]
  omega

theorem framed_drop_two : (framed c i p ck tail).drop 2 = coveredBytes c i p ++ ([ck.1, ck.2] ++ tail) := by
  simp [framed]

theorem framed_drop_six : (framed c i p ck tail).drop 6 = p ++ ([ck.1, ck.2] ++ tail) := by
  simp [framed, coveredBytes]

@[simp] theorem sliceBytes_framed_covered : sliceBytes (framed c i p ck tail) 2 (p.length + 4) = coveredBytes c i p := by
  rw [sliceBytes, framed_drop_two, List.take_left' (coveredBytes_length c i p)]

@[simp] theorem sliceBytes_framed_payload : sliceBytes (framed c i p ck tail) 6 p.length = p := by
  rw [sliceBytes, framed_drop_six, List.take_left]

theorem framed_getElem?_six_add (o : Nat) : (framed c i p ck tail)[6 + o]? = (p ++ ([ck.1, ck.2] ++ tail))[o]? := by
  rw [← framed_drop_six c i, List.getElem?_drop]

theorem framed_getElem?_payload {o : Nat} (ho : o < p.length) : (framed c i p ck tail)[6 + o]? = p[o]? := by
  rw [framed_getElem?_six_add, List.getElem?_append_left ho]

@[simp] theorem framed_getElem?_ckA : (framed c i p ck tail)[6 + p.length]? = some ck.1 := by
  simp [framed_getElem?_six_add]

@[simp] theorem framed_getElem?_ckB : (framed c i p ck tail)[7 + p.length]? = some ck.2 := by
  rw [show 7 + p.length = 6 + (p.length + 1) by omega, framed_getElem?_six_add]
  simp

variable {p}

/-- The length field of such a run is its payload's length, where that has 16 bits. -/
@[simp] theorem runLength_framed (h : p.length ≤ 65535) : runLength (framed c i p ck tail) = p.length := by
  simp [runLength, framed, coveredBytes]
  omega

/-- On such a run the verdict of `decode` is the comparison of the checksum. -/
theorem decodeFrame_framed (h : p.length ≤ 65535) :
    decodeFrame (framed c i p ck tail) =
      if fletcher8 (coveredBytes c i p) = ck then .ok ⟨c, i, p, h⟩ else .error .checksumMismatch := by
  have hmarkers : (framed c i p ck tail).getD 0 0 = sync1 ∧ (framed c i p ck tail).getD 1 0 = sync2 := ⟨rfl, rfl⟩
  have hids : (framed c i p ck tail).getD 2 0 = c ∧ (framed c i p ck tail).getD 3 0 = i := ⟨rfl, rfl⟩
  have hshort : ¬ p.length + 8 + tail.length < 2 ∧ ¬ p.length + 8 + tail.length < 8
      ∧ ¬ p.length + 8 + tail.length < p.length + 8 := by omega
  have hck : ((framed c i p ck tail).getD (6 + p.length) 0, (framed c i p ck tail).getD (7 + p.length) 0) = ck := by
    simp [List.getD_eq_getElem?_getD]
  simp only [decodeFrame, hmarkers, hids, hshort, hck, framed_length, runLength_framed c i ck tail h,
    sliceBytes_framed_covered, sliceBytes_framed_payload, ne_eq, not_true, or_self, if_false, ite_not]

end Framed

/-- Every run with the sync pair that is long enough for its length field is cut so (R62, steps 1 to 3). -/
theorem exists_framed {s : List Byte} (h0 : s.getD 0 0 = sync1) (h1 : s.getD 1 0 = sync2)
    (hlen : runLength s + 8 ≤ s.length) :
    ∃ c i p ck tail, p.length ≤ 65535 ∧ s = framed c i p ck tail := by
  match s with
  | s0 :: s1 :: c :: i :: lo :: hi :: rest =>
    have hL : runLength (s0 :: s1 :: c :: i :: lo :: hi :: rest) = lo.toNat + 256 * hi.toNat := rfl
    obtain ⟨hlo, hhi⟩ := lengthBytes_of_toNat lo hi
    have hbound := runLength_le (s0 :: s1 :: c :: i :: lo :: hi :: rest)
    rw [hL] at hlen hbound
    simp only [List.length_cons] at hlen
    obtain ⟨p, after, rfl, hp⟩ : ∃ p after, rest = p ++ after ∧ p.length = lo.toNat + 256 * hi.toNat :=
      ⟨_, _, (List.take_append_drop _ _).symm, List.length_take_of_le (by omega)⟩
    match after with
    | a :: b :: tail =>
      obtain ⟨rfl, rfl⟩ : s0 = sync1 ∧ s1 = sync2 := ⟨h0, h1⟩
      refine ⟨c, i, p, (a, b), tail, hp ▸ hbound, ?_⟩
      simp only [framed, coveredBytes, hp, hlo, hhi, List.cons_append, List.nil_append, List.append_assoc]
    | [] | [_] =>
      simp only [List.length_append, List.length_cons, List.length_nil] at hlen
      omega
  | [] | [_] | [_, _] | [_, _, _] | [_, _, _, _] | [_, _, _, _, _] => simp at hlen

/-! ### `encode` and `decode` (R61, R62) -/

theorem encodeFrame_of_le {c i : Byte} {p : List Byte} (h : p.length ≤ 65535) :
    encodeFrame c i p = .ok (framed c i p (fletcher8 (coveredBytes c i p)) []) := by
  rw [encodeFrame, if_neg (Nat.not_lt.2 h), framed, List.append_nil]

/-- What `decode` accepts passed its tests on the markers and the length. -/
theorem exists_framed_of_decodeFrame {s : List Byte} {f : Frame} (h : decodeFrame s = .ok f) :
    ∃ c i p ck tail, p.length ≤ 65535 ∧ s = framed c i p ck tail := by
  unfold decodeFrame at h
  split_ifs at h with hsync hmin hlen
  push Not at hsync
  obtain ⟨-, h0, h1⟩ := hsync
  exact exists_framed h0 h1 (Nat.not_lt.1 hlen)

/-- What `decode` accepts begins with the encoding of its answer. -/
theorem eq_framed_of_decodeFrame {s : List Byte} {f : Frame} (h : decodeFrame s = .ok f) :
    ∃ tail, s = framed f.cls f.mid f.payload (fletcher8 (coveredBytes f.cls f.mid f.payload)) tail := by
  obtain ⟨c, i, p, ck, tail, hp, rfl⟩ := exists_framed_of_decodeFrame h
  rw [decodeFrame_framed c i ck tail hp] at h
  split_ifs at h with hck
  obtain rfl := Except.ok.inj h
  exact ⟨tail, by rw [hck]⟩

/-- Settles O58: a run with the sync pair and bytes enough is cut in one way, and `decode` then compares the checksum. -/
theorem decodeAcceptsExactlyFrames : Obligations.DecodeAcceptsExactlyFrames := by
  intro s f
  rw [encodeFrame_of_le f.bound]
  constructor
  · intro h
    obtain ⟨tail, hs⟩ := eq_framed_of_decodeFrame h
    exact ⟨_, tail, rfl, by rw [hs, framed_append, List.nil_append]⟩
  · rintro ⟨bs, tail, hbs, rfl⟩
    obtain rfl := Except.ok.inj hbs
    rw [framed_append, decodeFrame_framed _ _ _ _ f.bound, if_pos rfl]

/-- Settles O56: the encoding is a framed run with the checksum of its covered bytes in the checksum's place. -/
theorem encodeLaysOutFrame : Obligations.EncodeLaysOutFrame := by
  refine fun c i p => ⟨fun h => by rw [encodeFrame, if_pos h], fun h => ⟨_, encodeFrame_of_le h, ?_⟩⟩
  rw [sliceBytes_framed_covered]
  exact ⟨framed_length .., rfl, rfl, rfl, rfl, runLength_framed _ _ _ _ h, fun _ ho => framed_getElem?_payload _ _ _ _ _ ho,
    framed_getElem?_ckA .., framed_getElem?_ckB ..⟩

end Sys2Proof.Machine

/-! ## Runs and their traces, cycle by cycle and cut in two (spec/00_scope.md R8, spec/30_encoding.md R54) -/

namespace Sys2Proof.Machine

section Runs
variable {s t u : State}

theorem runCycles_cons {c : CycleInput} (cs : List CycleInput) (h : tick s c = .next t) :
    runCycles (c :: cs) s = runCycles cs t := by
  rw [runCycles, h]

theorem runCycles_cons_next {c : CycleInput} {cs : List CycleInput} :
    runCycles (c :: cs) s = .next u ↔ ∃ t, tick s c = .next t ∧ runCycles cs t = .next u := by
  rw [runCycles]
  cases tick s c <;> simp

/-- A cycle that completes adds its operation and the state after it to the trace. -/
theorem opTrace_cons {c : CycleInput} (h : tick s c = .next t) :
    ∃ i, ∀ cs, opTrace (c :: cs) s = (i, t) :: opTrace cs t := by
  obtain ⟨i, hdecode, hexec⟩ := tick_next.1 h
  exact ⟨i, fun cs => by simp only [opTrace, hdecode, hexec]⟩

/-- A run on `cs` and then `ds` is the run on `ds` from where the one on `cs` ends. -/
theorem runCycles_append {cs : List CycleInput} (ds : List CycleInput) (h : runCycles cs s = .next t) :
    runCycles (cs ++ ds) s = runCycles ds t := by
  induction cs generalizing s with
  | nil => rw [List.nil_append, next_inj.1 h]
  | cons c cs ih =>
    obtain ⟨r, htick, hrun⟩ := runCycles_cons_next.1 h
    rw [List.cons_append, runCycles_cons _ htick, ih hrun]

theorem opTrace_append {cs : List CycleInput} (ds : List CycleInput) (h : runCycles cs s = .next t) :
    opTrace (cs ++ ds) s = opTrace cs s ++ opTrace ds t := by
  induction cs generalizing s with
  | nil => rw [next_inj.1 h]; rfl
  | cons c cs ih =>
    obtain ⟨r, htick, hrun⟩ := runCycles_cons_next.1 h
    obtain ⟨i, htrace⟩ := opTrace_cons htick
    rw [List.cons_append, htrace, htrace, ih hrun, List.cons_append]

theorem eventTrace_append {cs : List CycleInput} (ds : List CycleInput) (h : runCycles cs s = .next t) :
    eventTrace (cs ++ ds) s = eventTrace cs s ++ eventTrace ds t := by
  simp only [eventTrace, opTrace_append ds h, List.map_append, List.filter_append]

theorem eventTrace_singleton {c : CycleInput} (h : tick s c = .next t) :
    eventTrace [c] s = if t.ev = .none then [] else [t.ev] := by
  obtain ⟨i, htrace⟩ := opTrace_cons h
  rw [eventTrace, htrace]
  by_cases hev : t.ev = .none <;> simp [opTrace, hev]

theorem feedAll_append_singleton {bs : List Byte} (v : Byte) (h : feedAll bs s = .next t) :
    feedAll (bs ++ [v]) s = feed t v := by
  rw [feedAll, List.map_append, runCycles_append _ h, List.map_singleton, runCycles, feed]
  cases tick t (.byte v) <;> rfl

end Runs

end Sys2Proof.Machine

/-! ## The sync search (spec/41_sync_search.md)

The five operations of R70 to R74, and the search as the string matcher of R75: every byte it takes is dropped, or held as
the candidate that SEEKING_SYNC2 stands for. -/

namespace Sys2Proof.Machine

theorem sync1_ne_sync2 : sync1 ≠ sync2 := by decide

/-! ### Which cycles select a search operation -/

/-- The state of an operation's row, for the five rows of the search (R70 to R74). -/
def searchState? : Instr → Option RxState
  | .s1Hit | .s1Miss _ => some .seekingSync1
  | .s2Hit | .s2Resync | .s2Miss _ => some .seekingSync2
  | .reset | .idle => none
  | .hClass _ | .hId _ | .hLenlo _ | .hLenhi _ | .pByte _ | .cA _ | .cB _ => none

section Select
variable {s : State} {c : CycleInput} {i : Instr}

/-- An operation other than RESET and IDLE is selected by byte cycles only. -/
theorem decodeKey_selectorKey_byte (hreset : i ≠ .reset) (hidle : i ≠ .idle) :
    decodeKey (selectorKey s c) = some i ↔
      c.rst = false ∧ c.inValid = true ∧ dispatchByState s (.byte c.inData) = some i := by
  rw [decodeKey_selectorKey]
  obtain ⟨rst, inValid, d⟩ := c
  match rst, inValid with
  | true, _ => simp [dispatchByState, hreset.symm]
  | false, false => simp [dispatchByState, hidle.symm]
  | false, true => simp [CycleInput.byte]

theorem dispatchByState_seekingSync1 (v : Byte) (hst : s.st = .seekingSync1) :
    dispatchByState s (.byte v) = some (if v = sync1 then .s1Hit else .s1Miss v) := by
  split_ifs with hv <;> simp [dispatchByState, CycleInput.byte, hst, hv]

theorem dispatchByState_seekingSync2 (v : Byte) (hst : s.st = .seekingSync2) :
    dispatchByState s (.byte v) = some (if v = sync2 then .s2Hit else if v = sync1 then .s2Resync else .s2Miss v) := by
  split_ifs with hv2 hv1 <;> simp [dispatchByState, CycleInput.byte, sync1_ne_sync2, *]

/-- A search operation is selected in the state of its own row only. -/
theorem st_of_dispatchByState_search {v : Byte} {r : RxState} (hi : searchState? i = some r)
    (h : dispatchByState s (.byte v) = some i) : s.st = r := by
  cases hst : s.st with
  | seekingSync1 =>
    rw [dispatchByState_seekingSync1 v hst] at h
    split_ifs at h <;> cases h <;> cases hi <;> rfl
  | seekingSync2 =>
    rw [dispatchByState_seekingSync2 v hst] at h
    split_ifs at h <;> cases h <;> cases hi <;> rfl
  | readingPayload =>
    simp only [dispatchByState, CycleInput.byte, hst] at h
    cases h
    cases hi
  | readingHeader | readingChecksum =>
    simp only [dispatchByState, CycleInput.byte, hst, Bool.not_true, Bool.false_eq_true, if_false] at h
    split_ifs at h <;> cases h <;> cases hi

/-- The cycles that select a search operation: a byte, in the state of its row, that its row takes. -/
theorem decodeKey_selectorKey_search {r : RxState} (hi : searchState? i = some r) :
    decodeKey (selectorKey s c) = some i ↔
      c.rst = false ∧ c.inValid = true ∧ s.st = r ∧ dispatchByState s (.byte c.inData) = some i := by
  have hreset : i ≠ .reset := by rintro rfl; cases hi
  have hidle : i ≠ .idle := by rintro rfl; cases hi
  rw [decodeKey_selectorKey_byte hreset hidle,
    and_iff_right_of_imp (b := dispatchByState _ _ = _) (st_of_dispatchByState_search hi)]

/-- The cycles that select an operation of SEEKING_SYNC1, by the byte (R70, R71). -/
theorem decodeKey_selectorKey_seekingSync1 (hi : searchState? i = some .seekingSync1) :
    decodeKey (selectorKey s c) = some i ↔ c.rst = false ∧ c.inValid = true ∧ s.st = .seekingSync1 ∧
      (if c.inData = sync1 then .s1Hit else .s1Miss c.inData) = i := by
  rw [decodeKey_selectorKey_search hi]
  refine and_congr_right fun _ => and_congr_right fun _ => and_congr_right fun hst => ?_
  rw [dispatchByState_seekingSync1 _ hst, Option.some_inj]

/-- The cycles that select an operation of SEEKING_SYNC2, by the byte (R72 to R74). -/
theorem decodeKey_selectorKey_seekingSync2 (hi : searchState? i = some .seekingSync2) :
    decodeKey (selectorKey s c) = some i ↔ c.rst = false ∧ c.inValid = true ∧ s.st = .seekingSync2 ∧
      (if c.inData = sync2 then .s2Hit else if c.inData = sync1 then .s2Resync else .s2Miss c.inData) = i := by
  rw [decodeKey_selectorKey_search hi]
  refine and_congr_right fun _ => and_congr_right fun _ => and_congr_right fun hst => ?_
  rw [dispatchByState_seekingSync2 _ hst, Option.some_inj]

end Select

/-! ### The operations, one by one -/

/-- Settles O1: in SEEKING_SYNC1 the byte `B5` and no other selects S1_HIT. -/
theorem s1HitHoldsCandidate : Obligations.S1HitHoldsCandidate := by
  refine fun s => ⟨fun c => ?selected, fun hst hidx => execS1Hit_next.2 ⟨hst, hidx, rfl⟩⟩
  rw [decodeKey_selectorKey_seekingSync1 rfl, ← sync1]
  split_ifs with hv <;> simp [hv]

/-- Settles O2: S1_MISS carries the byte it is selected by. -/
theorem s1MissDropsOne : Obligations.S1MissDropsOne := by
  refine fun s v => ⟨fun c => ?selected, fun hst hidx hv => execS1Miss_next.2 ⟨⟨hst, hv⟩, hidx, rfl⟩⟩
  rw [decodeKey_selectorKey_seekingSync1 rfl, ← sync1]
  split_ifs <;> grind

/-- Settles O3: in SEEKING_SYNC2 the byte `62` and no other selects S2_HIT. -/
theorem s2HitOpensFrame : Obligations.S2HitOpensFrame := by
  refine fun s => ⟨fun c => ?selected, fun hst hidx => execS2Hit_next.2 ⟨hst, hidx, rfl⟩⟩
  rw [decodeKey_selectorKey_seekingSync2 rfl, ← sync2]
  split_ifs with hv2 <;> simp [hv2]

/-- Settles O4: in SEEKING_SYNC2 the byte `B5` and no other selects S2_RESYNC, the row before taking only `62`. -/
theorem s2ResyncDropsOlder : Obligations.S2ResyncDropsOlder := by
  refine fun s => ⟨fun c => ?selected, fun hst hidx => execS2Resync_next.2 ⟨hst, hidx, rfl⟩⟩
  rw [decodeKey_selectorKey_seekingSync2 rfl, ← sync1]
  split_ifs with hv2 hv1
  · simp [hv2, sync1_ne_sync2.symm]
  all_goals simp [hv1]

/-- Settles O5: S2_MISS carries the byte it is selected by, one that neither row before takes. -/
theorem s2MissDropsTwo : Obligations.S2MissDropsTwo := by
  refine fun s v => ⟨fun c => ?selected, fun hst hidx hv2 hv1 => execS2Miss_next.2 ⟨⟨hst, hv2, hv1⟩, hidx, rfl⟩⟩
  rw [decodeKey_selectorKey_seekingSync2 rfl, ← sync1, ← sync2]
  split_ifs <;> grind

/-- Settles O15, operation by operation: S2_HIT enters its state with `idx` 0, which is what it was. -/
theorem searchFrame : Obligations.SearchFrame := by
  rintro i s t (rfl | ⟨v, rfl⟩ | rfl | rfl | ⟨v, rfl⟩) h
  case inl => obtain ⟨_, _, rfl⟩ := execS1Hit_next.1 h; simp
  case inr.inl => obtain ⟨_, _, rfl⟩ := execS1Miss_next.1 h; simp
  case inr.inr.inl => obtain ⟨_, hidx, rfl⟩ := execS2Hit_next.1 h; simp [hidx]
  case inr.inr.inr.inl => obtain ⟨_, _, rfl⟩ := execS2Resync_next.1 h; simp
  case inr.inr.inr.inr => obtain ⟨_, _, rfl⟩ := execS2Miss_next.1 h; simp

/-! ### The search as a string matcher (R75) -/

/-- A byte more makes a sync pair exactly when it is `62` after a last `B5`. -/
theorem noSyncPair_append_singleton (g : List Byte) (v : Byte) :
    noSyncPair (g ++ [v]) = true ↔ noSyncPair g = true ∧ ¬(g.getLast? = some sync1 ∧ v = sync2) := by
  induction g using noSyncPair.induct with
  | case1 => simp [noSyncPair]
  | case2 x => simp [noSyncPair, imp_iff_not_or]
  | case3 x y bs ih =>
    rw [List.cons_append] at ih
    simp only [List.cons_append, noSyncPair, Bool.and_eq_true, ih, and_assoc, List.getLast?_cons_cons]

/-- The state the search is in after bytes that end in `last`: it holds a last `B5` as a candidate. -/
def stAfter (last : Option Byte) : RxState := if last = some sync1 then .seekingSync2 else .seekingSync1

/-- One byte taken by the search, not completing the sync pair, leads from `s` to `t`: nothing is signalled, and of the byte
and the candidate held before, those not held now are dropped. In the search the frame position counts the bytes held. -/
structure SearchStep (s : State) (v : Byte) (t : State) : Prop where
  feed_eq : feed s v = .next t
  ev : t.ev = .none
  cfg : t.cfg = s.cfg
  idx : t.idx = 0
  st : t.st = stAfter (some v)
  dropped : ∃ k, k + framePos t = framePos s + 1 ∧ t.dropped = dropCount s.cfg.dropW s.dropped k

/-- The search has taken the bytes `g` from `s`, where none was held, and is in `t`: nothing was signalled, and each byte is
dropped or held. -/
structure Searched (s : State) (g : List Byte) (t : State) : Prop where
  feedAll_eq : feedAll g s = .next t
  quiet : eventTrace (g.map .byte) s = []
  cfg : t.cfg = s.cfg
  idx : t.idx = 0
  st : t.st = stAfter g.getLast?
  dropped : ∃ k, k + framePos t = g.length ∧ t.dropped = dropCount s.cfg.dropW s.dropped k

section Search
variable {s t u : State}

theorem framePos_of_st_stAfter {last : Option Byte} (h : t.st = stAfter last) :
    framePos t = if last = some sync1 then 1 else 0 := by
  unfold stAfter at h
  split_ifs at h ⊢
  · exact framePos_seekingSync2 h
  · exact framePos_seekingSync1 h

/-- S1_HIT holds the byte and drops none; S1_MISS drops it (R70, R71). -/
theorem exists_searchStep_seekingSync1 (v : Byte) (hst : s.st = .seekingSync1) (hidx : s.idx = 0)
    (hdropped : s.dropped < 2 ^ s.cfg.dropW) : ∃ t, SearchStep s v t := by
  have hfeed := feed_seekingSync1 v hst
  split_ifs at hfeed with hv
  · rw [execS1Hit_next.2 ⟨hst, hidx, rfl⟩] at hfeed
    exact ⟨_, hfeed, rfl, rfl, hidx, by simp [stAfter, hv], 0, by rw [framePos_seekingSync1 hst]; rfl,
      (dropCount_zero hdropped).symm⟩
  · rw [execS1Miss_next.2 ⟨⟨hst, hv⟩, hidx, rfl⟩] at hfeed
    exact ⟨_, hfeed, rfl, rfl, hidx, by simp [stAfter, hv, hst], 1, Nat.add_comm 1 (framePos s), rfl⟩

/-- S2_RESYNC drops the candidate and holds the byte; S2_MISS drops both (R73, R74). -/
theorem exists_searchStep_seekingSync2 {v : Byte} (hst : s.st = .seekingSync2) (hidx : s.idx = 0) (hv2 : v ≠ sync2) :
    ∃ t, SearchStep s v t := by
  have hfeed := feed_seekingSync2 v hst
  rw [if_neg hv2] at hfeed
  split_ifs at hfeed with hv1
  · rw [execS2Resync_next.2 ⟨hst, hidx, rfl⟩] at hfeed
    exact ⟨_, hfeed, rfl, rfl, hidx, by simp [stAfter, hv1, hst], 1, Nat.add_comm 1 (framePos s), rfl⟩
  · rw [execS2Miss_next.2 ⟨⟨hst, hv2, hv1⟩, hidx, rfl⟩] at hfeed
    exact ⟨_, hfeed, rfl, rfl, hidx, by simp [stAfter, hv1], 2, by rw [framePos_seekingSync2 hst]; rfl, rfl⟩

theorem searched_nil (hst : s.st = .seekingSync1) (hidx : s.idx = 0) (hdropped : s.dropped < 2 ^ s.cfg.dropW) :
    Searched s [] s :=
  ⟨rfl, rfl, rfl, hidx, hst, 0, (Nat.zero_add _).trans (framePos_seekingSync1 hst),
    (dropCount_zero hdropped).symm⟩

/-- One byte more: the drops add up. -/
theorem Searched.append_singleton {g : List Byte} {v : Byte} (h : Searched s g t) (hstep : SearchStep t v u) :
    Searched s (g ++ [v]) u := by
  obtain ⟨k, hk, hdropped⟩ := h.dropped
  obtain ⟨j, hj, hdropped'⟩ := hstep.dropped
  refine ⟨?feed, ?quiet, hstep.cfg.trans h.cfg, hstep.idx, ?st, k + j, ?count, ?dropped⟩
  case feed => rw [feedAll_append_singleton v h.feedAll_eq, hstep.feed_eq]
  case quiet =>
    rw [List.map_append, eventTrace_append _ h.feedAll_eq, h.quiet, List.map_singleton,
      eventTrace_singleton hstep.feed_eq, if_pos hstep.ev, List.nil_append]
  case st => rw [hstep.st, List.getLast?_concat]
  case count => rw [List.length_append, List.length_singleton]; omega
  case dropped => rw [hdropped', h.cfg, hdropped, dropCount_add]

/-- Bytes without a sync pair keep the search going (R75). -/
theorem exists_searched {g : List Byte} (hst : s.st = .seekingSync1) (hidx : s.idx = 0)
    (hdropped : s.dropped < 2 ^ s.cfg.dropW) (hg : noSyncPair g = true) : ∃ t, Searched s g t := by
  induction g using List.reverseRecOn with
  | nil => exact ⟨s, searched_nil hst hidx hdropped⟩
  | append_singleton g v ih =>
    obtain ⟨hg, hv⟩ := (noSyncPair_append_singleton g v).1 hg
    obtain ⟨t, h⟩ := ih hg
    have hstep : ∃ u, SearchStep t v u := by
      have ht := h.st
      unfold stAfter at ht
      split_ifs at ht with hlast
      · exact exists_searchStep_seekingSync2 ht h.idx fun hv2 => hv ⟨hlast, hv2⟩
      · obtain ⟨k, _, hk⟩ := h.dropped
        exact exists_searchStep_seekingSync1 v ht h.idx (by rw [hk, h.cfg]; exact dropCount_lt _ _ _)
    exact hstep.imp fun u hstep => h.append_singleton hstep

theorem Searched.of_getLast_sync1 {g : List Byte} (h : Searched s g t) (hlast : g.getLast? = some sync1) :
    t.st = .seekingSync2 ∧ t.dropped = (s.dropped + (g.length - 1)) % 2 ^ s.cfg.dropW := by
  obtain ⟨k, hk, hdropped⟩ := h.dropped
  rw [framePos_of_st_stAfter h.st, if_pos hlast] at hk
  exact ⟨h.st.trans (if_pos hlast), by rw [hdropped, ← hk]; rfl⟩

theorem Searched.of_getLast_ne_sync1 {g : List Byte} (h : Searched s g t) (hlast : g.getLast? ≠ some sync1) :
    t.st = .seekingSync1 ∧ t.dropped = (s.dropped + g.length) % 2 ^ s.cfg.dropW := by
  obtain ⟨k, hk, hdropped⟩ := h.dropped
  rw [framePos_of_st_stAfter h.st, if_neg hlast] at hk
  exact ⟨h.st.trans (if_neg hlast), by rw [hdropped, ← hk]; rfl⟩

end Search

/-- Settles O46. The bytes with one `B5` more still hold no sync pair, so the search is then in SEEKING_SYNC2 with all but
that `B5` dropped, and S2_HIT takes the `62`. -/
theorem searchIsStringMatcher : Obligations.SearchIsStringMatcher := by
  intro s g ⟨hidx, _⟩ ⟨_, hdropped, _⟩ hst hg
  have hsearch {bs : List Byte} := exists_searched (g := bs) hst (hidx (.inl hst)) hdropped
  constructor
  · obtain ⟨t, h⟩ := hsearch hg
    exact ⟨t, h.feedAll_eq, h.quiet, h.of_getLast_sync1, h.of_getLast_ne_sync1⟩
  · obtain ⟨t, h⟩ := hsearch ((noSyncPair_append_singleton g sync1).2 ⟨hg, fun hv => sync1_ne_sync2 hv.2⟩)
    obtain ⟨ht, hcount⟩ := h.of_getLast_sync1 List.getLast?_concat
    have hfeed := feed_seekingSync2 sync2 ht
    rw [if_pos rfl, execS2Hit_next.2 ⟨ht, h.idx, rfl⟩, ← feedAll_append_singleton _ h.feedAll_eq,
      ← List.append_cons] at hfeed
    exact ⟨_, hfeed, rfl, by simpa using hcount⟩

end Sys2Proof.Machine

/-! ## The header (spec/42_header.md)

The four operations of R80 to R83: in READING_HEADER `idx` alone chooses among them, and each steps the checksum. -/

namespace Sys2Proof.Machine

/-! ### Which cycles select a header operation -/

/-- The state of an operation's row; RESET and IDLE are selected in every state (R52). -/
def rowState? : Instr → Option RxState
  | .reset | .idle => none
  | .s1Hit | .s1Miss _ => some .seekingSync1
  | .s2Hit | .s2Resync | .s2Miss _ => some .seekingSync2
  | .hClass _ | .hId _ | .hLenlo _ | .hLenhi _ => some .readingHeader
  | .pByte _ => some .readingPayload
  | .cA _ | .cB _ => some .readingChecksum

/-- The header operation that takes the byte `v` at index `k` (R80 to R83). -/
def headerOp (k : BitVec 2) (v : Byte) : Instr :=
  if k = 0 then .hClass v else if k = 1 then .hId v else if k = 2 then .hLenlo v else .hLenhi v

theorem headerOp_inj {k k' : BitVec 2} {v v' : Byte} : headerOp k v = headerOp k' v' ↔ k = k' ∧ v = v' := by
  obtain rfl | rfl | rfl | rfl := idx_cases k <;> obtain rfl | rfl | rfl | rfl := idx_cases k' <;> simp [headerOp]

theorem rowState?_headerOp (k : BitVec 2) (v : Byte) : rowState? (headerOp k v) = some .readingHeader := by
  unfold headerOp
  split_ifs <;> rfl

section Select
variable {s : State} {c : CycleInput} {i : Instr} {k : BitVec 2} {v d : Byte}

/-- A byte cycle selects an operation in the state of its row only. -/
theorem rowState?_of_dispatchByState (h : dispatchByState s (.byte d) = some i) : rowState? i = some s.st := by
  cases hst : s.st with
  | seekingSync1 =>
    rw [dispatchByState_seekingSync1 d hst] at h
    split_ifs at h <;> cases h <;> rfl
  | seekingSync2 =>
    rw [dispatchByState_seekingSync2 d hst] at h
    split_ifs at h <;> cases h <;> rfl
  | readingPayload =>
    simp only [dispatchByState, CycleInput.byte, hst] at h
    cases h
    rfl
  | readingHeader | readingChecksum =>
    simp only [dispatchByState, CycleInput.byte, hst, Bool.not_true, Bool.false_eq_true, if_false] at h
    split_ifs at h <;> cases h <;> rfl

theorem dispatchByState_readingHeader (d : Byte) (hst : s.st = .readingHeader) :
    dispatchByState s (.byte d) = some (headerOp s.idx d) := by
  simp [dispatchByState, CycleInput.byte, hst, headerOp, apply_ite some]

/-- The cycles that select a header operation: a byte, its operand, in READING_HEADER at its index (R80 to R83). -/
theorem decodeKey_selectorKey_headerOp :
    decodeKey (selectorKey s c) = some (headerOp k v) ↔
      c.rst = false ∧ c.inValid = true ∧ s.st = .readingHeader ∧ s.idx = k ∧ c.inData = v := by
  have hrow := rowState?_headerOp k v
  have hst (h : dispatchByState s (.byte c.inData) = some (headerOp k v)) : s.st = .readingHeader :=
    Option.some_inj.1 ((rowState?_of_dispatchByState h).symm.trans hrow)
  have hreset : headerOp k v ≠ .reset := fun h => by rw [h] at hrow; cases hrow
  have hidle : headerOp k v ≠ .idle := fun h => by rw [h] at hrow; cases hrow
  rw [decodeKey_selectorKey_byte hreset hidle, ← and_iff_right_of_imp hst]
  refine and_congr_right fun _ => and_congr_right fun _ => and_congr_right fun hst => ?_
  rw [dispatchByState_readingHeader _ hst, Option.some_inj, headerOp_inj]

end Select

/-! ### The registers as natural numbers -/

/-- One covered byte enters the checksum, in numbers: `b` adds the updated `a` (R60). -/
theorem State.accumulate_eq_ofNat (s : State) (v : Byte) :
    s.accumulate v = { s with
      ckA := BitVec.ofNat 8 ((s.ckA.toNat + v.toNat) % 256)
      ckB := BitVec.ofNat 8 ((s.ckB.toNat + (s.ckA.toNat + v.toNat) % 256) % 256) } := by
  obtain ⟨ha, hb⟩ := fletcherStep_toNat (s.ckA, s.ckB) v
  rw [← Nat.add_mod_mod] at hb
  rw [← hb, ← ha, BitVec.ofNat_toNat, BitVec.ofNat_toNat, BitVec.setWidth_eq, BitVec.setWidth_eq, State.accumulate]

/-- The length that H_LENHI completes: `L = len[7:0] + 256 * v` (R83). -/
theorem u16le_loByte_eq_ofNat (x : Word16) (v : Byte) :
    u16le (loByte x) v = BitVec.ofNat 16 (x.toNat % 256 + 256 * v.toNat) := by
  rw [← loByte_toNat, ← u16le_toNat, BitVec.ofNat_toNat, BitVec.setWidth_eq]

/-- The outcome of the length check, by the length as a number. -/
theorem lengthOutcome_eq_of_toNat (maxLen : Nat) {l : Word16} {n : Nat} (h : l.toNat = n) :
    lengthOutcome maxLen l =
      (if n > maxLen then .seekingSync1 else if n = 0 then .readingChecksum else .readingPayload,
        if n > maxLen then .frameTooLarge else .none) := by
  have hzero : l = 0 ↔ n = 0 := by rw [← h]; exact BitVec.toNat_inj.symm
  simp only [lengthOutcome, h, hzero]
  split_ifs <;> rfl

/-! ### The operations, one by one -/

/-- Settles O6: index 0 selects H_CLASS, and its row carries the byte. -/
theorem hClassTakesClass : Obligations.HClassTakesClass := fun s v =>
  ⟨fun _ => decodeKey_selectorKey_headerOp (k := 0),
    fun hst hidx => execHClass_next.2 ⟨⟨hst, hidx⟩, by rw [s.accumulate_eq_ofNat v]⟩⟩

/-- Settles O7: index 1 selects H_ID, and its row carries the byte. -/
theorem hIdTakesId : Obligations.HIdTakesId := fun s v =>
  ⟨fun _ => decodeKey_selectorKey_headerOp (k := 1),
    fun hst hidx => execHId_next.2 ⟨⟨hst, hidx⟩, by rw [s.accumulate_eq_ofNat v]⟩⟩

/-- Settles O8: the zero-extended byte has the byte's own value, so the high half of `len` is 0. -/
theorem hLenloTakesLowByte : Obligations.HLenloTakesLowByte := fun s v =>
  ⟨fun _ => decodeKey_selectorKey_headerOp (k := 2),
    fun hst hidx => execHLenlo_next.2 ⟨⟨hst, hidx⟩, by rw [s.accumulate_eq_ofNat v, BitVec.ofNat_toNat]⟩⟩

/-- Settles O9: the two length bytes are 16 bits, so `L` is not reduced and the register is compared as the number. -/
theorem hLenhiChecksLength : Obligations.HLenhiChecksLength := by
  refine fun s v => ⟨fun _ => decodeKey_selectorKey_headerOp (k := 3), fun hst hidx => ?performed⟩
  have hL : (u16le (loByte s.len) v).toNat = s.len.toNat % 256 + 256 * v.toNat := by rw [u16le_toNat, loByte_toNat]
  refine execHLenhi_next.2 ⟨⟨hst, hidx⟩, ?_⟩
  rw [lengthOutcome_eq_of_toNat _ hL, u16le_loByte_eq_ofNat, s.accumulate_eq_ofNat v]

/-- Settles O16, operation by operation: each writes the registers its rule names. -/
theorem headerFrame : Obligations.HeaderFrame := by
  rintro i v s t (rfl | rfl | rfl | rfl) h
  case inl => obtain ⟨_, rfl⟩ := execHClass_next.1 h; simp
  case inr.inl => obtain ⟨_, rfl⟩ := execHId_next.1 h; simp
  case inr.inr.inl => obtain ⟨_, rfl⟩ := execHLenlo_next.1 h; simp
  case inr.inr.inr => obtain ⟨_, rfl⟩ := execHLenhi_next.1 h; simp

end Sys2Proof.Machine

/-! ## The payload, the checksum and the system operations (spec/43_payload_checksum.md, spec/44_idle_reset.md)

P_BYTE, C_A and C_B by their rules R90 to R92, and what C_A, C_B, IDLE and RESET leave alone. -/

namespace Sys2Proof.Machine

/-! ### Which cycles select a payload or checksum operation -/

section Select
variable {s : State} {c : CycleInput} {i : Instr} {r : RxState} {v : Byte}

/-- The cycles that select an operation of a state's row: a byte, in that state, that the row takes (R52). -/
theorem decodeKey_selectorKey_of_rowState (hi : rowState? i = some r) :
    decodeKey (selectorKey s c) = some i ↔
      c.rst = false ∧ c.inValid = true ∧ s.st = r ∧ dispatchByState s (.byte c.inData) = some i := by
  have hst (h : dispatchByState s (.byte c.inData) = some i) : s.st = r :=
    Option.some_inj.1 ((rowState?_of_dispatchByState h).symm.trans hi)
  have hreset : i ≠ .reset := by rintro rfl; cases hi
  have hidle : i ≠ .idle := by rintro rfl; cases hi
  rw [decodeKey_selectorKey_byte hreset hidle, and_iff_right_of_imp hst]

theorem dispatchByState_readingPayload (d : Byte) (hst : s.st = .readingPayload) :
    dispatchByState s (.byte d) = some (.pByte d) := by
  simp [dispatchByState, CycleInput.byte, hst]

/-- In READING_CHECKSUM `idx` chooses between the two bytes, and 2 and 3 are reserved (R53). -/
theorem dispatchByState_readingChecksum (d : Byte) (hst : s.st = .readingChecksum) :
    dispatchByState s (.byte d) = some i ↔ s.idx = 0 ∧ .cA d = i ∨ s.idx = 1 ∧ .cB d = i := by
  obtain hidx | hidx | hidx | hidx := idx_cases s.idx <;> simp [dispatchByState, CycleInput.byte, hst, hidx]

/-- P_BYTE is selected by a byte, its operand, in READING_PAYLOAD, whatever `idx` is (R90). -/
theorem decodeKey_selectorKey_pByte :
    decodeKey (selectorKey s c) = some (.pByte v) ↔
      c.rst = false ∧ c.inValid = true ∧ s.st = .readingPayload ∧ c.inData = v := by
  rw [decodeKey_selectorKey_of_rowState rfl]
  refine and_congr_right fun _ => and_congr_right fun _ => and_congr_right fun hst => ?_
  rw [dispatchByState_readingPayload _ hst, Option.some_inj, Instr.pByte.injEq]

/-- C_A is selected by a byte, its operand, in READING_CHECKSUM at index 0 (R91). -/
theorem decodeKey_selectorKey_cA :
    decodeKey (selectorKey s c) = some (.cA v) ↔
      c.rst = false ∧ c.inValid = true ∧ s.st = .readingChecksum ∧ s.idx = 0 ∧ c.inData = v := by
  rw [decodeKey_selectorKey_of_rowState rfl]
  refine and_congr_right fun _ => and_congr_right fun _ => and_congr_right fun hst => ?_
  simp [dispatchByState_readingChecksum _ hst]

/-- C_B is selected by a byte, its operand, in READING_CHECKSUM at index 1 (R92). -/
theorem decodeKey_selectorKey_cB :
    decodeKey (selectorKey s c) = some (.cB v) ↔
      c.rst = false ∧ c.inValid = true ∧ s.st = .readingChecksum ∧ s.idx = 1 ∧ c.inData = v := by
  rw [decodeKey_selectorKey_of_rowState rfl]
  refine and_congr_right fun _ => and_congr_right fun _ => and_congr_right fun hst => ?_
  simp [dispatchByState_readingChecksum _ hst]

end Select

/-! ### The operations, one by one -/

/-- Settles O10: the buffer is the one cell's write, and `cnt < len` keeps the count from wrapping and inside the buffer. -/
theorem pByteStoresPayload : Obligations.PByteStoresPayload := by
  refine fun s v => ⟨fun _ => decodeKey_selectorKey_pByte, fun hst hidx hlt hmax =>
    ⟨Memory.write s.pbuf s.cnt.toNat v, ?performed, Memory.read_write_same _ _ _,
      fun a ha => Memory.read_write_other _ _ ha⟩⟩
  have hcnt : s.cnt + 1 = BitVec.ofNat 16 (s.cnt.toNat + 1) := by bv_omega
  have hlast : s.cnt + 1 = s.len ↔ s.cnt.toNat + 1 = s.len.toNat := by bv_omega
  refine execPByte_next.2 ⟨hst, ⟨hidx, hlt⟩, hlt.trans_le hmax, ?_⟩
  simp only [State.accumulate_eq_ofNat, State.storePayload, hlast, ← hcnt, hidx]

/-- Settles O11: index 0 selects C_A, which holds any byte. -/
theorem cAHoldsFirstByte : Obligations.CAHoldsFirstByte := fun _ _ =>
  ⟨fun _ => decodeKey_selectorKey_cA, fun hst hidx => execCA_next.2 ⟨⟨hst, hidx⟩, rfl⟩⟩

/-- Settles O12: index 1 selects C_B, which signals the verdict, whichever it is. -/
theorem cBGivesVerdict : Obligations.CBGivesVerdict := fun _ _ =>
  ⟨fun _ => decodeKey_selectorKey_cB, fun hst hidx => execCB_next.2 ⟨⟨hst, hidx⟩, rfl⟩⟩

/-- Settles O17, operation by operation: each of the four writes the registers its rule names; every clause names its
operations, so the other ten satisfy them all. -/
theorem checksumAndSystemFrame : Obligations.ChecksumAndSystemFrame := by
  intro i s t h
  cases i with
  | cA v => obtain ⟨_, rfl⟩ := execCA_next.1 h; simp
  | cB v => obtain ⟨_, rfl⟩ := execCB_next.1 h; simp
  | idle => obtain rfl := execIdle_next.1 h; simp
  | reset => obtain rfl := execReset_next.1 h; simp
  | _ => simp

end Sys2Proof.Machine

/-! ## The cycle step, IDLE and RESET (spec/44_idle_reset.md)

A cycle is a reset, an idle cycle or a byte: the first two are selected by `rst` and `in_valid` alone and complete in
every state, the third is the byte step of R103. -/

namespace Sys2Proof.Machine

section Cycle
variable {s : State} {c : CycleInput}

/-! ### Which cycles select a system operation -/

/-- A byte selects an operation of some state's row, so neither RESET nor IDLE (R52). -/
theorem dispatchByState_byte_ne_some {i : Instr} (v : Byte) (hi : rowState? i = none) :
    dispatchByState s (.byte v) ≠ some i :=
  fun h => Option.some_ne_none _ ((rowState?_of_dispatchByState h).symm.trans hi)

theorem decodeKey_selectorKey_reset : decodeKey (selectorKey s c) = some .reset ↔ c.rst = true := by
  rw [decodeKey_selectorKey]
  obtain ⟨rst, inValid, d⟩ := c
  match rst, inValid with
  | true, _ => simp [dispatchByState]
  | false, false => simp [dispatchByState]
  | false, true => exact iff_of_false (dispatchByState_byte_ne_some d rfl) Bool.false_ne_true

theorem decodeKey_selectorKey_idle :
    decodeKey (selectorKey s c) = some .idle ↔ c.rst = false ∧ c.inValid = false := by
  rw [decodeKey_selectorKey]
  obtain ⟨rst, inValid, d⟩ := c
  match rst, inValid with
  | true, _ => simp [dispatchByState]
  | false, false => simp [dispatchByState]
  | false, true => exact iff_of_false (dispatchByState_byte_ne_some d rfl) (by simp)

/-! ### What each kind of cycle does (R100) -/

theorem tick_of_rst (hrst : c.rst = true) : tick s c = .next s.afterReset :=
  (tick_eq_exec (decodeKey_selectorKey_reset.2 hrst)).trans (execReset_next.2 rfl)

theorem tick_of_not_inValid (hrst : c.rst = false) (hvalid : c.inValid = false) :
    tick s c = .next (s.setEvent .none) :=
  (tick_eq_exec (decodeKey_selectorKey_idle.2 ⟨hrst, hvalid⟩)).trans (execIdle_next.2 rfl)

theorem tick_of_inValid (hrst : c.rst = false) (hvalid : c.inValid = true) : tick s c = feed s c.inData := by
  obtain ⟨rst, inValid, d⟩ := c
  subst hrst hvalid
  rfl

theorem State.afterReset_afterReset (s : State) : s.afterReset.afterReset = s.afterReset := rfl

end Cycle

/-! ### The obligations -/

/-- Settles O33, by the kind of cycle: RESET and IDLE complete in every state, a byte in every structural one (R13). -/
theorem structuralStatesNeverStop : Obligations.StructuralStatesNeverStop := by
  intro s c h
  cases hrst : c.rst with
  | true => exact ⟨_, tick_of_rst hrst⟩
  | false =>
    cases hvalid : c.inValid with
    | false => exact ⟨_, tick_of_not_inValid hrst hvalid⟩
    | true =>
      obtain ⟨_, t, hfeed, _⟩ := framePositionAdvances s c.inData h
      exact ⟨t, (tick_of_inValid hrst hvalid).trans hfeed⟩

/-- Settles O13: IDLE writes `ev` and no other register. -/
theorem idleClearsEvent : Obligations.IdleClearsEvent := fun _ =>
  ⟨fun _ => decodeKey_selectorKey_idle, execIdle_next.2 rfl⟩

/-- Settles O14: a RESET keeps of its state only what RESET does not write, so a second one finds the same. -/
theorem resetRestoresRegisters : Obligations.ResetRestoresRegisters := by
  refine fun s => ⟨fun _ => decodeKey_selectorKey_reset, execReset_next.2 rfl, fun t h => ?_⟩
  obtain rfl := execReset_next.1 h
  exact execReset_next.2 s.afterReset_afterReset

end Sys2Proof.Machine

/-! ## The invariants of every run (spec/45_properties.md R105, R106)

Each operation keeps the form of the data and the checksum invariant; the structural invariant is kept by
`exec_keeps_structural`. A step of the machine and a reachable state inherit all three. -/

namespace Sys2Proof.Machine

/-- A stored range is read back cell by cell. -/
theorem Memory.read_of_readRange {m : Memory} {a n : Nat} {bs : List Byte} (h : Memory.readRange m a n = some bs)
    {o : Nat} (ho : o < bs.length) : Memory.read m (a + o) = some bs[o] := by
  induction n generalizing a bs o with
  | zero =>
    rw [Memory.readRange_zero, Option.some_inj] at h
    simp [← h] at ho
  | succ n ih =>
    simp only [Memory.readRange] at h
    split at h
    · rename_i b bs' hb hbs'
      obtain rfl := Option.some.inj h
      cases o with
      | zero => exact hb
      | succ o =>
        rw [show a + (o + 1) = a + 1 + o by omega, ih hbs' (Nat.lt_of_succ_lt_succ ho), List.getElem_cons_succ]
    · cases h

section Invariants
variable {s t : State} {i : Instr}

/-! ### The count and the buffer -/

/-- `dropped` grows by the bytes the operation discards, and RESET alone clears it (R18). -/
theorem exec_dropped (h : exec i s = .next t) (hreset : i ≠ .reset) (hdropped : s.dropped < 2 ^ s.cfg.dropW) :
    t.dropped = dropCount s.cfg.dropW s.dropped (discardedBytes i) := by
  have hkept := (dropCount_zero hdropped).symm
  cases i with
  | reset => exact absurd rfl hreset
  | idle => obtain rfl := execIdle_next.1 h; exact hkept
  | s1Hit => obtain ⟨_, _, rfl⟩ := execS1Hit_next.1 h; exact hkept
  | s1Miss v => obtain ⟨_, _, rfl⟩ := execS1Miss_next.1 h; rfl
  | s2Hit => obtain ⟨_, _, rfl⟩ := execS2Hit_next.1 h; exact hkept
  | s2Resync => obtain ⟨_, _, rfl⟩ := execS2Resync_next.1 h; rfl
  | s2Miss v => obtain ⟨_, _, rfl⟩ := execS2Miss_next.1 h; rfl
  | hClass v => obtain ⟨_, rfl⟩ := execHClass_next.1 h; exact hkept
  | hId v => obtain ⟨_, rfl⟩ := execHId_next.1 h; exact hkept
  | hLenlo v => obtain ⟨_, rfl⟩ := execHLenlo_next.1 h; exact hkept
  | hLenhi v => obtain ⟨_, rfl⟩ := execHLenhi_next.1 h; exact hkept
  | pByte v => obtain ⟨_, _, _, rfl⟩ := execPByte_next.1 h; exact hkept
  | cA v => obtain ⟨_, rfl⟩ := execCA_next.1 h; exact hkept
  | cB v => obtain ⟨_, rfl⟩ := execCB_next.1 h; exact hkept

theorem exec_dropped_lt (h : exec i s = .next t) (hdropped : s.dropped < 2 ^ s.cfg.dropW) :
    t.dropped < 2 ^ s.cfg.dropW := by
  by_cases hreset : i = .reset
  · subst hreset
    obtain rfl := execReset_next.1 h
    exact Nat.two_pow_pos _
  · rw [exec_dropped h hreset hdropped]
    exact dropCount_lt _ _ _

/-- P_BYTE alone writes the buffer (R90). -/
theorem exec_pbuf (h : exec i s = .next t) (hi : ∀ v, i ≠ .pByte v) : t.pbuf = s.pbuf := by
  cases i with
  | reset => obtain rfl := execReset_next.1 h; rfl
  | idle => obtain rfl := execIdle_next.1 h; rfl
  | s1Hit => obtain ⟨_, _, rfl⟩ := execS1Hit_next.1 h; rfl
  | s1Miss v => obtain ⟨_, _, rfl⟩ := execS1Miss_next.1 h; rfl
  | s2Hit => obtain ⟨_, _, rfl⟩ := execS2Hit_next.1 h; rfl
  | s2Resync => obtain ⟨_, _, rfl⟩ := execS2Resync_next.1 h; rfl
  | s2Miss v => obtain ⟨_, _, rfl⟩ := execS2Miss_next.1 h; rfl
  | hClass v => obtain ⟨_, rfl⟩ := execHClass_next.1 h; rfl
  | hId v => obtain ⟨_, rfl⟩ := execHId_next.1 h; rfl
  | hLenlo v => obtain ⟨_, rfl⟩ := execHLenlo_next.1 h; rfl
  | hLenhi v => obtain ⟨_, rfl⟩ := execHLenhi_next.1 h; rfl
  | pByte v => exact absurd rfl (hi v)
  | cA v => obtain ⟨_, rfl⟩ := execCA_next.1 h; rfl
  | cB v => obtain ⟨_, rfl⟩ := execCB_next.1 h; rfl

theorem exec_keeps_pbuf (h : exec i s = .next t) (hwf : Memory.wf s.pbuf)
    (hwithin : Memory.within s.pbuf s.cfg.maxLen.val) :
    Memory.wf t.pbuf ∧ Memory.within t.pbuf s.cfg.maxLen.val := by
  by_cases hi : ∃ v, i = .pByte v
  · obtain ⟨v, rfl⟩ := hi
    obtain ⟨hlt, hpbuf⟩ := execPByte_pbuf h
    rw [hpbuf]
    exact ⟨Memory.write_wf _ _ hwf, Memory.write_within _ hwithin hlt⟩
  · rw [exec_pbuf h (not_exists.1 hi)]
    exact ⟨hwf, hwithin⟩

theorem exec_keeps_dataOk (hdata : s.dataOk) (h : exec i s = .next t) : t.dataOk := by
  obtain ⟨hwf, hdropped, hpbuf, hwithin⟩ := hdata
  obtain ⟨hcfg, _⟩ := exec_keeps_cfg_input h
  rw [State.dataOk, hcfg]
  exact ⟨hwf, exec_dropped_lt h hdropped, exec_keeps_pbuf h hpbuf hwithin⟩

/-! ### The running checksum -/

/-- Outside a framed run R106 asks nothing. -/
theorem checksumOk_of_searching (hst : s.searching) : s.checksumOk := by
  obtain hst | hst := hst <;> exact ⟨by simp [hst], by simp [hst]⟩

theorem checksumOk_of_readingHeader (hst : s.st = .readingHeader)
    (hck : (s.ckA, s.ckB) = fletcher8 ((headerBytes s).take s.idx.toNat)) : s.checksumOk :=
  ⟨fun _ => hck, by simp [hst]⟩

/-- After the header: the bytes below `cnt` have been written, and with the header they have the running checksum. -/
theorem checksumOk_of_afterHeader {p : List Byte} (hst : s.st = .readingPayload ∨ s.st = .readingChecksum)
    (hp : Memory.readRange s.pbuf 0 s.cnt.toNat = some p) (hck : fletcher8 (headerBytes s ++ p) = (s.ckA, s.ckB)) :
    s.checksumOk := by
  refine ⟨fun hhead => ?_, fun _ => by rw [hp, Option.map_some, hck]⟩
  rw [hhead] at hst
  simp at hst

theorem exists_payload_of_checksumOk (h : s.checksumOk) (hst : s.st = .readingPayload ∨ s.st = .readingChecksum) :
    ∃ p, Memory.readRange s.pbuf 0 s.cnt.toNat = some p ∧ fletcher8 (headerBytes s ++ p) = (s.ckA, s.ckB) := by
  obtain ⟨_, hafter⟩ := h
  exact Option.map_eq_some_iff.1 (hafter hst)

/-- H_LENHI leaves the checksum of the whole header, in whichever state it leaves the block (R83). -/
theorem checksumOk_of_lengthOutcome (hst : t.st = (lengthOutcome t.cfg.maxLen.val t.len).1) (hcnt : t.cnt = 0)
    (hck : fletcher8 (headerBytes t) = (t.ckA, t.ckB)) : t.checksumOk := by
  have hnone : Memory.readRange t.pbuf 0 t.cnt.toNat = some [] := by rw [hcnt]; rfl
  rw [← List.append_nil (headerBytes t)] at hck
  unfold lengthOutcome at hst
  split_ifs at hst
  · exact checksumOk_of_searching (.inl hst)
  · exact checksumOk_of_afterHeader (.inr hst) hnone hck
  · exact checksumOk_of_afterHeader (.inl hst) hnone hck

/-- The append law of R60 on the accumulators: one covered byte more. -/
theorem accumulate_checksum {bs : List Byte} (v : Byte) (h : (s.ckA, s.ckB) = fletcher8 bs) :
    ((s.accumulate v).ckA, (s.accumulate v).ckB) = fletcher8 (bs ++ [v]) := by
  rw [fletcher8_append_singleton, ← h]
  rfl

theorem exec_keeps_checksumOk (hck : s.checksumOk) (h : exec i s = .next t) : t.checksumOk := by
  have ⟨hhead, _⟩ := hck
  cases i with
  | reset => obtain rfl := execReset_next.1 h; exact checksumOk_of_searching (.inl rfl)
  | idle => obtain rfl := execIdle_next.1 h; exact hck
  | s1Hit => obtain ⟨_, _, rfl⟩ := execS1Hit_next.1 h; exact checksumOk_of_searching (.inr rfl)
  | s1Miss v => obtain ⟨⟨hst, _⟩, _, rfl⟩ := execS1Miss_next.1 h; exact checksumOk_of_searching (.inl hst)
  | s2Hit => obtain ⟨_, _, rfl⟩ := execS2Hit_next.1 h; exact checksumOk_of_readingHeader rfl rfl
  | s2Resync => obtain ⟨hst, _, rfl⟩ := execS2Resync_next.1 h; exact checksumOk_of_searching (.inr hst)
  | s2Miss v => obtain ⟨_, _, rfl⟩ := execS2Miss_next.1 h; exact checksumOk_of_searching (.inl rfl)
  | hClass v =>
    obtain ⟨⟨hst, hidx⟩, rfl⟩ := execHClass_next.1 h
    rw [hidx] at hhead
    exact checksumOk_of_readingHeader hst (accumulate_checksum v (hhead hst))
  | hId v =>
    obtain ⟨⟨hst, hidx⟩, rfl⟩ := execHId_next.1 h
    rw [hidx] at hhead
    exact checksumOk_of_readingHeader hst (accumulate_checksum v (hhead hst))
  | hLenlo v =>
    obtain ⟨⟨hst, hidx⟩, rfl⟩ := execHLenlo_next.1 h
    rw [hidx] at hhead
    refine checksumOk_of_readingHeader hst ((accumulate_checksum v (hhead hst)).trans ?_)
    simp [headerBytes]
  | hLenhi v =>
    obtain ⟨⟨hst, hidx⟩, rfl⟩ := execHLenhi_next.1 h
    rw [hidx] at hhead
    refine checksumOk_of_lengthOutcome rfl rfl (.trans ?_ (accumulate_checksum v (hhead hst)).symm)
    simp [headerBytes]
  | pByte v =>
    obtain ⟨hst, ⟨_, hlt⟩, _, rfl⟩ := execPByte_next.1 h
    obtain ⟨p, hp, hpck⟩ := exists_payload_of_checksumOk hck (.inl hst)
    have hcnt : (s.cnt + 1).toNat = s.cnt.toNat + 1 := by bv_omega
    refine checksumOk_of_afterHeader (p := p ++ [v]) ?_ ?_ ?_
    · exact (ite_eq_or_eq _ _ _).symm
    · change Memory.readRange (Memory.write s.pbuf s.cnt.toNat v) 0 (s.cnt + 1).toNat = _
      rw [hcnt, Memory.readRange_write v hp]
    · rw [← List.append_assoc]
      exact (accumulate_checksum v hpck.symm).symm
  | cA v =>
    obtain ⟨⟨hst, _⟩, rfl⟩ := execCA_next.1 h
    obtain ⟨p, hp, hpck⟩ := exists_payload_of_checksumOk hck (.inr hst)
    exact checksumOk_of_afterHeader (.inr hst) hp hpck
  | cB v => obtain ⟨_, rfl⟩ := execCB_next.1 h; exact checksumOk_of_searching (.inl rfl)

theorem exec_keeps_sound (hs : s.sound) (h : exec i s = .next t) : t.sound := by
  obtain ⟨hstruct, hdata, hck⟩ := hs
  exact ⟨exec_keeps_structural hstruct h, exec_keeps_dataOk hdata h, exec_keeps_checksumOk hck h⟩

end Invariants

/-! ### The obligations -/

/-- A step is one operation, on a state that differs in the pending inputs only. -/
theorem exists_exec_of_step {s t : State} (h : step s = .next t) : ∃ i l, exec i (s.withInput l) = .next t := by
  obtain ⟨c, l, _, htick⟩ := step_next.1 h
  obtain ⟨i, _, hexec⟩ := tick_next.1 htick
  exact ⟨i, l, hexec⟩

/-- Settles O31: no part of the two invariants is about the pending inputs, and every operation keeps both. -/
theorem stepKeepsStructure : Obligations.StepKeepsStructure := by
  intro s t hs hdata h
  obtain ⟨i, l, hexec⟩ := exists_exec_of_step h
  exact ⟨exec_keeps_structural (s := s.withInput l) hs hexec, exec_keeps_dataOk (s := s.withInput l) hdata hexec⟩

/-- Settles O32, by the append law of the checksum, operation by operation. -/
theorem stepKeepsChecksum : Obligations.StepKeepsChecksum := by
  intro s t ⟨_, _, hck⟩ h
  obtain ⟨i, l, hexec⟩ := exists_exec_of_step h
  exact exec_keeps_checksumOk (s := s.withInput l) hck hexec

/-- Settles O34: RESET leaves a sound state, every operation keeps it sound, and a sound state never stops. -/
theorem reachableStatesAreSound : Obligations.ReachableStatesAreSound := by
  intro s h
  have hs : s.sound := h.invariant (fun _ input hcfg => State.resetOf_sound input hcfg) fun _ _ _ => exec_keeps_sound
  have ⟨hstruct, _⟩ := hs
  exact ⟨hs, fun c => structuralStatesNeverStop s c hstruct⟩

end Sys2Proof.Machine

/-! ## What the codec promises (spec/45_properties.md R111, R113)

A byte run that differs from an encoding in one byte is again a framed run, unless the byte is of the sync pair or of the
length field, and a change of one byte always changes the checksum's byte sum. -/

namespace Sys2Proof.Machine

/-- The bytes of a frame: framed, with the checksum of its covered bytes (R61). -/
def frameBytes (c i : Byte) (p : List Byte) : List Byte := framed c i p (fletcher8 (coveredBytes c i p)) []

theorem frameBytes_length (c i : Byte) (p : List Byte) : (frameBytes c i p).length = p.length + 8 := framed_length ..

theorem runLength_frameBytes (c i : Byte) {p : List Byte} (h : p.length ≤ 65535) :
    runLength (frameBytes c i p) = p.length := runLength_framed c i _ [] h

theorem encodeFrame_ok {c i : Byte} {p bs : List Byte} :
    encodeFrame c i p = .ok bs ↔ p.length ≤ 65535 ∧ frameBytes c i p = bs := by
  by_cases h : p.length ≤ 65535
  · rw [encodeFrame_of_le h, Except.ok.injEq, and_iff_right h, frameBytes]
  · rw [encodeFrame, if_pos (Nat.lt_of_not_le h)]
    simp [h]

/-- Settles O57: the encoding is a framed run with its own checksum. -/
theorem codecRoundTrip : Obligations.CodecRoundTrip :=
  fun c i _ h => ⟨_, encodeFrame_of_le h, by rw [decodeFrame_framed c i _ _ h, if_pos rfl]⟩

/-! ### One byte changed -/

theorem byteSum_set {s : List Byte} {o : Nat} (ho : o < s.length) (v : Byte) :
    byteSum (s.set o v) + s[o].toNat = byteSum s + v.toNat := by
  induction s generalizing o with
  | nil => simp at ho
  | cons x s ih =>
    cases o with
    | zero => simp [byteSum]; omega
    | succ o =>
      have := ih (Nat.lt_of_succ_lt_succ ho)
      simp only [byteSum, List.set_cons_succ, List.map_cons, List.sum_cons, List.getElem_cons_succ] at this ⊢
      omega

/-- The byte sum tells two sequences apart that differ in one byte (R113). -/
theorem fletcher8_set_ne {s : List Byte} {o : Nat} {v : Byte} (ho : o < s.length) (hv : v ≠ s[o]) :
    fletcher8 (s.set o v) ≠ fletcher8 s := by
  intro h
  obtain ⟨ha, _⟩ := fletcher8_toNat s
  obtain ⟨ha', _⟩ := fletcher8_toNat (s.set o v)
  rw [h, ha] at ha'
  have hsum := byteSum_set ho v
  refine hv (BitVec.eq_of_toNat_eq ?_)
  omega

section Framed
variable (c i : Byte) (p : List Byte) (ck : Byte × Byte) (tail : List Byte)

theorem framed_set_class (v : Byte) : (framed c i p ck tail).set 2 v = framed v i p ck tail := rfl

theorem framed_set_id (v : Byte) : (framed c i p ck tail).set 3 v = framed c v p ck tail := rfl

theorem framed_set_six_add (o : Nat) (v : Byte) : (framed c i p ck tail).set (6 + o) v =
    (framed c i p ck tail).take 6 ++ (p ++ ([ck.1, ck.2] ++ tail)).set o v := by
  have hsix : ((framed c i p ck tail).take 6).length = 6 := rfl
  rw [← framed_drop_six c i]
  conv_lhs => rw [← List.take_append_drop 6 (framed c i p ck tail)]
  rw [List.set_append_right _ _ (hsix.le.trans (Nat.le_add_right 6 o)), hsix, Nat.add_sub_cancel_left]

theorem framed_set_payload {o : Nat} (ho : o < p.length) (v : Byte) :
    (framed c i p ck tail).set (6 + o) v = framed c i (p.set o v) ck tail := by
  rw [framed_set_six_add, List.set_append_left _ _ ho]
  simp [framed, coveredBytes]

theorem framed_set_ckA (v : Byte) :
    (framed c i p ck tail).set (6 + p.length) v = framed c i p (v, ck.2) tail := by
  rw [framed_set_six_add, List.set_append_right _ _ le_rfl]
  simp [framed, coveredBytes]

theorem framed_set_ckB (v : Byte) :
    (framed c i p ck tail).set (7 + p.length) v = framed c i p (ck.1, v) tail := by
  rw [show 7 + p.length = 6 + (p.length + 1) by omega, framed_set_six_add, List.set_append_right _ _ (Nat.le_succ _)]
  simp [framed, coveredBytes]

theorem coveredBytes_set_payload (o : Nat) (v : Byte) :
    coveredBytes c i (p.set o v) = (coveredBytes c i p).set (o + 4) v := by
  simp [coveredBytes]

end Framed


/-- On a run that is framed with another checksum than that of its covered bytes, `decode` reports it. -/
theorem decodeFrame_framed_of_ne {c i : Byte} {p : List Byte} {ck : Byte × Byte} (tail : List Byte)
    (h : p.length ≤ 65535) (hck : fletcher8 (coveredBytes c i p) ≠ ck) :
    decodeFrame (framed c i p ck tail) = .error .checksumMismatch := by
  rw [decodeFrame_framed c i ck tail h, if_neg hck]

/-- A change of a byte of the class, the id, the payload or the checksum is always reported (R113). -/
theorem decodeFrame_set_frameBytes {c i v : Byte} {p : List Byte} {off : Nat} (h : p.length ≤ 65535)
    (hoff : off = 2 ∨ off = 3 ∨ 6 ≤ off) (hlt : off < (frameBytes c i p).length) (hv : v ≠ (frameBytes c i p)[off]) :
    decodeFrame ((frameBytes c i p).set off v) = .error .checksumMismatch := by
  simp only [frameBytes] at hlt hv ⊢
  obtain rfl | rfl | hoff := hoff
  · rw [framed_set_class]
    refine decodeFrame_framed_of_ne [] h ?_
    exact fletcher8_set_ne (s := coveredBytes c i p) (o := 0) (by simp [coveredBytes]) hv
  · rw [framed_set_id]
    refine decodeFrame_framed_of_ne [] h ?_
    exact fletcher8_set_ne (s := coveredBytes c i p) (o := 1) (by simp [coveredBytes]) hv
  rw [ne_eq, ← Option.some_inj, ← List.getElem?_eq_getElem] at hv
  rw [framed_length, List.length_nil] at hlt
  obtain ⟨o, ho, rfl⟩ | rfl | rfl : (∃ o < p.length, off = 6 + o) ∨ off = 6 + p.length ∨ off = 7 + p.length := by
    by_cases ho : off - 6 < p.length
    · exact .inl ⟨off - 6, ho, by omega⟩
    · exact .inr (by omega)
  · rw [framed_getElem?_payload _ _ _ _ _ ho, List.getElem?_eq_getElem ho, Option.some_inj] at hv
    rw [framed_set_payload _ _ _ _ _ ho]
    refine decodeFrame_framed_of_ne [] (by rwa [List.length_set]) ?_
    rw [coveredBytes_set_payload]
    exact fletcher8_set_ne (by rw [coveredBytes_length]; omega) hv
  · rw [framed_getElem?_ckA, Option.some_inj] at hv
    rw [framed_set_ckA]
    exact decodeFrame_framed_of_ne [] h fun hck => hv (congrArg Prod.fst hck).symm
  · rw [framed_getElem?_ckB, Option.some_inj] at hv
    rw [framed_set_ckB]
    exact decodeFrame_framed_of_ne [] h fun hck => hv (congrArg Prod.snd hck).symm

/-! ### The tests before the checksum (R62) -/

theorem decodeFrame_of_ne_sync {s : List Byte} (h : s.getD 0 0 ≠ sync1 ∨ s.getD 1 0 ≠ sync2) :
    decodeFrame s = .error .syncMismatch :=
  if_pos (.inr h)

theorem decodeFrame_of_length_lt {s : List Byte} (h0 : s.getD 0 0 = sync1) (h1 : s.getD 1 0 = sync2)
    (h8 : 8 ≤ s.length) (h : s.length < runLength s + 8) : decodeFrame s = .error .lengthExceedsBuffer := by
  have hsync : ¬(s.length < 2 ∨ s.getD 0 0 ≠ sync1 ∨ s.getD 1 0 ≠ sync2) := by
    rintro (h2 | hne0 | hne1)
    exacts [absurd h8 (by omega), hne0 h0, hne1 h1]
  rw [decodeFrame, if_neg hsync, if_neg (Nat.not_lt.2 h8), if_pos h]

/-- A run long enough for its length field has a frame of that length, if the checksum is its own. -/
theorem decodeFrame_of_runLength_le {s : List Byte} (h0 : s.getD 0 0 = sync1) (h1 : s.getD 1 0 = sync2)
    (h : runLength s + 8 ≤ s.length) :
    decodeFrame s = .error .checksumMismatch ∨ ∃ f : Frame, decodeFrame s = .ok f ∧ f.payload.length = runLength s := by
  obtain ⟨c, i, p, ck, tail, hp, rfl⟩ := exists_framed h0 h1 h
  rw [decodeFrame_framed c i ck tail hp, runLength_framed c i ck tail hp]
  split_ifs
  · exact .inr ⟨_, rfl, rfl⟩
  · exact .inl rfl

/-! ### One bit flipped -/

theorem flipBit_length (s : List Byte) (off bit : Nat) : (flipBit s off bit).length = s.length := List.length_set ..

theorem flipBit_getD_ne {s : List Byte} {off k : Nat} (bit : Nat) (h : off ≠ k) :
    (flipBit s off bit).getD k 0 = s.getD k 0 := by
  rw [flipBit, List.getD_eq_getElem?_getD, List.getElem?_set_ne h, ← List.getD_eq_getElem?_getD]

theorem xor_bit_ne (v : Byte) {bit : Nat} (h : bit < 8) : v ^^^ (1#8 <<< bit) ≠ v := by
  have hbit : ∀ b < 8, 1#8 <<< b ≠ 0#8 := by decide
  intro hv
  refine hbit bit h ?_
  calc 1#8 <<< bit
    _ = v ^^^ (v ^^^ (1#8 <<< bit)) := by rw [← BitVec.xor_assoc, BitVec.xor_self, BitVec.zero_xor]
    _ = 0#8 := by rw [hv, BitVec.xor_self]

theorem flipBit_getD_self {s : List Byte} {off bit : Nat} (hoff : off < s.length) (hbit : bit < 8) :
    (flipBit s off bit).getD off 0 ≠ s.getD off 0 := by
  rw [flipBit, List.getD_eq_getElem _ _ (by simpa using hoff), List.getElem_set_self]
  exact xor_bit_ne _ hbit

/-- Settles O59, by the field the flipped bit lies in: the sync pair, a byte the checksum covers or is, the length. -/
theorem checksumSensitivity : Obligations.ChecksumSensitivity := by
  refine ⟨fun c i p bs off bit hbs hoff hbit => ?_, rfl, rfl⟩
  obtain ⟨hp, rfl⟩ := encodeFrame_ok.1 hbs
  have hlen := flipBit_length (frameBytes c i p) off bit
  have hrun := runLength_frameBytes c i hp
  have hself := flipBit_getD_self hoff hbit
  have hsync (h : off = 4 ∨ off = 5) :
      (flipBit (frameBytes c i p) off bit).getD 0 0 = sync1 ∧ (flipBit (frameBytes c i p) off bit).getD 1 0 = sync2 :=
    ⟨flipBit_getD_ne bit (by omega), flipBit_getD_ne bit (by omega)⟩
  rw [frameBytes_length] at hlen
  refine ⟨fun h => ?sync, fun h => ?covered, fun h hraised => ?raised, fun h hlowered => ?lowered⟩
  case sync =>
    obtain rfl | rfl : off = 0 ∨ off = 1 := by omega
    · exact decodeFrame_of_ne_sync (.inl hself)
    · exact decodeFrame_of_ne_sync (.inr hself)
  case covered =>
    refine decodeFrame_set_frameBytes hp h hoff ?_
    rw [List.getD_eq_getElem _ _ hoff]
    exact xor_bit_ne _ hbit
  case raised =>
    obtain ⟨h0, h1⟩ := hsync h
    exact decodeFrame_of_length_lt h0 h1 (by omega) (by omega)
  case lowered =>
    obtain ⟨h0, h1⟩ := hsync h
    refine (decodeFrame_of_runLength_le h0 h1 (by omega)).imp_right fun ⟨f, hf, hflen⟩ => ⟨f, hf, ?_⟩
    omega

end Sys2Proof.Machine

/-! ## The count (spec/45_properties.md R105, spec/10_state.md R15)

What can happen to `cnt` in one operation: H_LENHI and RESET clear it, P_BYTE raises it by one towards `len`. -/

namespace Sys2Proof.Machine

section Count
variable {s t : State} {i : Instr}

/-- Everything an operation can do to `cnt`. -/
theorem exec_cnt_cases (h : exec i s = .next t) :
    t.cnt = s.cnt
    ∨ (i = .reset ∨ ∃ v, i = .hLenhi v) ∧ t.cnt = 0
    ∨ (∃ v, i = .pByte v) ∧ s.st = .readingPayload ∧ t.cnt.toNat = s.cnt.toNat + 1 ∧ t.cnt.toNat ≤ t.len.toNat
      ∧ t.len = s.len := by
  cases i with
  | reset => obtain rfl := execReset_next.1 h; exact .inr (.inl ⟨.inl rfl, rfl⟩)
  | idle => obtain rfl := execIdle_next.1 h; exact .inl rfl
  | s1Hit => obtain ⟨_, _, rfl⟩ := execS1Hit_next.1 h; exact .inl rfl
  | s1Miss v => obtain ⟨_, _, rfl⟩ := execS1Miss_next.1 h; exact .inl rfl
  | s2Hit => obtain ⟨_, _, rfl⟩ := execS2Hit_next.1 h; exact .inl rfl
  | s2Resync => obtain ⟨_, _, rfl⟩ := execS2Resync_next.1 h; exact .inl rfl
  | s2Miss v => obtain ⟨_, _, rfl⟩ := execS2Miss_next.1 h; exact .inl rfl
  | hClass v => obtain ⟨_, rfl⟩ := execHClass_next.1 h; exact .inl rfl
  | hId v => obtain ⟨_, rfl⟩ := execHId_next.1 h; exact .inl rfl
  | hLenlo v => obtain ⟨_, rfl⟩ := execHLenlo_next.1 h; exact .inl rfl
  | hLenhi v => obtain ⟨_, rfl⟩ := execHLenhi_next.1 h; exact .inr (.inl ⟨.inr ⟨v, rfl⟩, rfl⟩)
  | pByte v =>
    obtain ⟨hst, ⟨_, hlt⟩, _, rfl⟩ := execPByte_next.1 h
    have hcnt : (s.cnt + 1).toNat = s.cnt.toNat + 1 := by bv_omega
    exact .inr (.inr ⟨⟨v, rfl⟩, hst, hcnt, hcnt.trans_le hlt, rfl⟩)
  | cA v => obtain ⟨_, rfl⟩ := execCA_next.1 h; exact .inl rfl
  | cB v => obtain ⟨_, rfl⟩ := execCB_next.1 h; exact .inl rfl

theorem exec_keeps_cnt_le (hs : s.structural) (hcnt : s.cnt.toNat ≤ s.cfg.maxLen.val) (h : exec i s = .next t) :
    t.cnt.toNat ≤ t.cfg.maxLen.val := by
  obtain ⟨_, _, hpayload, _⟩ := hs
  obtain ⟨hcfg, _⟩ := exec_keeps_cfg_input h
  rw [hcfg]
  obtain hkept | ⟨_, hzero⟩ | ⟨_, hst, _, hle, hlen⟩ := exec_cnt_cases h
  · rwa [hkept]
  · rw [hzero]; exact Nat.zero_le _
  · obtain ⟨_, hmax⟩ := hpayload hst
    exact hle.trans (hlen ▸ hmax)

theorem Reachable.cnt_le (h : Reachable s) : s.cnt.toNat ≤ s.cfg.maxLen.val := by
  obtain ⟨_, hcnt⟩ : s.structural ∧ s.cnt.toNat ≤ s.cfg.maxLen.val :=
    h.invariant (P := fun s => s.structural ∧ s.cnt.toNat ≤ s.cfg.maxLen.val)
      (fun cfg input _ => ⟨State.resetOf_structural cfg input, Nat.zero_le _⟩)
      fun _ _ _ ⟨hs, hcnt⟩ hexec => ⟨exec_keeps_structural hs hexec, exec_keeps_cnt_le hs hcnt hexec⟩
  exact hcnt

theorem Reachable.cnt_le_len (h : Reachable s) (hs : ¬ s.betweenLengthBytes) : s.cnt.toNat ≤ s.len.toNat := by
  obtain ⟨_, _, _, hcount⟩ := h.structural
  have hmax := h.cnt_le
  obtain hle | hbig := hcount.resolve_left hs
  · exact hle
  · exact (hmax.trans_lt hbig).le

theorem lengthOutcome_eq_frameTooLarge {maxLen : Nat} {l : Word16} :
    (lengthOutcome maxLen l).2 = .frameTooLarge ↔ maxLen < l.toNat := by
  unfold lengthOutcome
  split_ifs with hbig <;> simp [hbig]

/-- After H_LENHI the count is 0, and the run was aborted exactly when the length is above `MAX_LEN` (R83). -/
theorem execHLenhi_cnt_ev {v : Byte} (h : exec (.hLenhi v) s = .next t) :
    t.cnt = 0 ∧ (t.ev = .frameTooLarge ↔ t.cfg.maxLen.val < t.len.toNat) := by
  obtain ⟨_, rfl⟩ := execHLenhi_next.1 h
  exact ⟨rfl, lengthOutcome_eq_frameTooLarge⟩

end Count

theorem inData_of_hLenhi {s : State} {c : CycleInput} {v : Byte} (h : decodeKey (selectorKey s c) = some (.hLenhi v)) :
    c.inData = v := by
  obtain ⟨_, _, _, _, hv⟩ := (decodeKey_selectorKey_headerOp (k := 3)).1 h
  exact hv

/-- Settles O60, by what an operation can do to `cnt`. -/
theorem countRisesOnlyToLength : Obligations.CountRisesOnlyToLength := by
  refine ⟨fun s h => ⟨h.cnt_le, h.cnt_le_len⟩, fun s t c _ htick => ?_⟩
  obtain ⟨i, hdecode, hexec⟩ := tick_next.1 htick
  refine ⟨fun hraised => ?raised, fun hkey => execHLenhi_cnt_ev ((tick_eq_exec hkey).symm.trans htick),
    fun hlowered => ?lowered⟩
  case raised =>
    obtain hkept | ⟨_, hzero⟩ | ⟨⟨v, rfl⟩, _, hcnt, hle, hlen⟩ := exec_cnt_cases hexec
    · simp [hkept] at hraised
    · simp [hzero] at hraised
    · obtain ⟨_, _, _, rfl⟩ := decodeKey_selectorKey_pByte.1 hdecode
      exact ⟨hdecode, hcnt, hle, hlen⟩
  case lowered =>
    obtain hkept | ⟨rfl | ⟨v, rfl⟩, _⟩ | ⟨_, _, hcnt, _⟩ := exec_cnt_cases hexec
    · simp [hkept] at hlowered
    · exact .inr hdecode
    · obtain rfl := inData_of_hLenhi hdecode
      exact .inl hdecode
    · omega

end Sys2Proof.Machine

/-! ## Byte accounting (spec/45_properties.md R108, R110)

Every operation on a byte keeps one balance: the bytes held before it and the one accepted are those it discards, those of a
run it finishes and those held after it. That alone shows when an event can come and that the search is reached again. -/

namespace Sys2Proof.Machine

section Balance
variable {s t : State} {i : Instr} {v : Byte}

/-- C_B ends a complete run, whatever the verdict (R92). -/
theorem finishedBytes_verdict (s : State) (v : Byte) :
    finishedBytes (s.signal (verdict s.ckA s.ckB s.rxA v)) = s.len.toNat + 8 := by
  unfold verdict
  split_ifs <;> rfl

/-- The balance of R108 in one operation on a byte. -/
theorem exec_byteBalance (h : exec i s = .next t) (hi : rowState? i ≠ none) :
    framePos s + 1 = discardedBytes i + finishedBytes t + framePos t := by
  cases i with
  | reset | idle => exact absurd rfl hi
  | s1Hit => obtain ⟨hst, _, rfl⟩ := execS1Hit_next.1 h; simp [framePos, finishedBytes, discardedBytes, hst]
  | s1Miss v => obtain ⟨⟨hst, _⟩, _, rfl⟩ := execS1Miss_next.1 h; simp [framePos, finishedBytes, discardedBytes, hst]
  | s2Hit => obtain ⟨hst, _, rfl⟩ := execS2Hit_next.1 h; simp [framePos, finishedBytes, discardedBytes, hst]
  | s2Resync => obtain ⟨hst, _, rfl⟩ := execS2Resync_next.1 h; simp [framePos, finishedBytes, discardedBytes, hst]
  | s2Miss v => obtain ⟨⟨hst, _⟩, _, rfl⟩ := execS2Miss_next.1 h; simp [framePos, finishedBytes, discardedBytes, hst]
  | hClass v =>
    obtain ⟨⟨hst, hidx⟩, rfl⟩ := execHClass_next.1 h
    simp [framePos, finishedBytes, discardedBytes, hst, hidx]
  | hId v =>
    obtain ⟨⟨hst, hidx⟩, rfl⟩ := execHId_next.1 h
    simp [framePos, finishedBytes, discardedBytes, hst, hidx]
  | hLenlo v =>
    obtain ⟨⟨hst, hidx⟩, rfl⟩ := execHLenlo_next.1 h
    simp [framePos, finishedBytes, discardedBytes, hst, hidx]
  | hLenhi v =>
    obtain ⟨⟨hst, hidx⟩, rfl⟩ := execHLenhi_next.1 h
    simp only [lengthOutcome]
    split_ifs with hbig hzero
    · simp [framePos, finishedBytes, discardedBytes, hst, hidx]
    · simp [framePos, finishedBytes, discardedBytes, hst, hidx, hzero]
    · simp [framePos, finishedBytes, discardedBytes, hst, hidx]
  | pByte v =>
    obtain ⟨hst, ⟨_, hlt⟩, _, ht⟩ := execPByte_next.1 h
    have hev : t.ev = .none := by rw [← ht]
    have hpos : framePos t = 6 + s.cnt.toNat + 1 := by
      rw [← ht]
      exact framePos_afterPayloadByte rfl rfl rfl rfl hlt
    rw [hpos, framePos_readingPayload hst]
    simp [finishedBytes, discardedBytes, hev]
  | cA v =>
    obtain ⟨⟨hst, hidx⟩, rfl⟩ := execCA_next.1 h
    simp [framePos, finishedBytes, discardedBytes, hst, hidx]
  | cB v =>
    obtain ⟨⟨hst, hidx⟩, rfl⟩ := execCB_next.1 h
    rw [framePos_readingChecksum hst, hidx, finishedBytes_verdict, framePos_seekingSync1 rfl]
    change 6 + s.len.toNat + 1 + 1 = 0 + (s.len.toNat + 8) + 0
    omega

/-- The operation of a byte cycle is of the state's own rows, so it keeps the balance. -/
theorem byteBalance_of_decode {c : CycleInput} (hrst : c.rst = false) (hvalid : c.inValid = true)
    (hdecode : decodeKey (selectorKey s c) = some i) (hexec : exec i s = .next t) :
    framePos s + 1 = discardedBytes i + finishedBytes t + framePos t := by
  obtain ⟨rst, inValid, d⟩ := c
  subst hrst hvalid
  rw [decodeKey_selectorKey] at hdecode
  have hrow : rowState? i = some s.st := rowState?_of_dispatchByState (d := d) hdecode
  exact exec_byteBalance hexec (by simp [hrow])

/-- The shortest framed run is an aborted header (R110). -/
theorem six_le_finishedBytes (h : t.ev ≠ .none) : 6 ≤ finishedBytes t := by
  unfold finishedBytes
  split
  · contradiction
  · omega
  · omega
  · exact le_rfl

/-- With fewer than five bytes held, a byte can end no framed run. -/
theorem feed_quiet_of_framePos_lt (h : feed s v = .next t) (hpos : framePos s < 5) :
    t.ev = .none ∧ framePos t ≤ framePos s + 1 := by
  obtain ⟨i, hdecode, hexec⟩ := tick_next.1 h
  have hbalance := byteBalance_of_decode rfl rfl hdecode hexec
  refine ⟨by_contra fun hev => ?_, by omega⟩
  have := six_le_finishedBytes hev
  omega

end Balance

/-! ### Runs from structural states -/

section Runs
variable {s t : State}

/-- What every operation keeps, every run keeps. -/
theorem runCycles_keeps {P : State → Prop} (hexec : ∀ i s t, P s → exec i s = .next t → P t) {cs : List CycleInput}
    (hs : P s) (h : runCycles cs s = .next t) : P t := by
  induction cs generalizing s with
  | nil => rwa [← next_inj.1 h]
  | cons c cs ih =>
    obtain ⟨r, htick, hrun⟩ := runCycles_cons_next.1 h
    obtain ⟨i, _, hi⟩ := tick_next.1 htick
    exact ih (hexec i s r hs hi) hrun

theorem runCycles_keeps_structural {cs : List CycleInput} (hs : s.structural) (h : runCycles cs s = .next t) :
    t.structural := runCycles_keeps (fun _ _ _ => exec_keeps_structural) hs h

theorem runCycles_keeps_dataOk {cs : List CycleInput} (hs : s.dataOk) (h : runCycles cs s = .next t) :
    t.dataOk := runCycles_keeps (fun _ _ _ => exec_keeps_dataOk) hs h

theorem runCycles_keeps_checksumOk {cs : List CycleInput} (hs : s.checksumOk) (h : runCycles cs s = .next t) :
    t.checksumOk := runCycles_keeps (fun _ _ _ => exec_keeps_checksumOk) hs h

theorem runCycles_keeps_cfg {cs : List CycleInput} (h : runCycles cs s = .next t) : t.cfg = s.cfg :=
  runCycles_keeps (P := fun r => r.cfg = s.cfg) (fun _ _ _ hs hexec => (exec_keeps_cfg_input hexec).1.trans hs) rfl h

theorem exists_runCycles (cs : List CycleInput) (hs : s.structural) : ∃ t, runCycles cs s = .next t := by
  induction cs generalizing s with
  | nil => exact ⟨s, rfl⟩
  | cons c cs ih =>
    obtain ⟨r, htick⟩ := structuralStatesNeverStop s c hs
    obtain ⟨i, _, hexec⟩ := tick_next.1 htick
    rw [runCycles_cons cs htick]
    exact ih (exec_keeps_structural hs hexec)

theorem eventTrace_cons {c : CycleInput} (cs : List CycleInput) (h : tick s c = .next t) :
    eventTrace (c :: cs) s = (if t.ev = .none then [] else [t.ev]) ++ eventTrace cs t := by
  rw [← eventTrace_singleton h, ← List.singleton_append, eventTrace_append _ ((runCycles_cons [] h).trans rfl)]

/-- Bytes too few to end a framed run signal nothing. -/
theorem eventTrace_of_framePos_add_le {bs : List Byte} (hs : s.structural) (h : framePos s + bs.length ≤ 5) :
    eventTrace (bs.map .byte) s = [] := by
  induction bs generalizing s with
  | nil => rfl
  | cons v bs ih =>
    rw [List.length_cons] at h
    obtain ⟨_, t, hfeed, _⟩ := framePositionAdvances s v hs
    obtain ⟨i, _, hexec⟩ := tick_next.1 hfeed
    obtain ⟨hev, hpos⟩ := feed_quiet_of_framePos_lt hfeed (by omega)
    rw [List.map_cons, eventTrace_cons _ hfeed, if_pos hev, ih (exec_keeps_structural hs hexec) (by omega),
      List.append_nil]

end Runs

/-! ### Which operations signal (R125) -/

theorem lengthOutcome_of_signals {maxLen : Nat} {l : Word16} (h : (lengthOutcome maxLen l).2 ≠ .none) :
    lengthOutcome maxLen l = (.seekingSync1, .frameTooLarge) := by
  unfold lengthOutcome at h ⊢
  split_ifs at h ⊢
  · rfl
  all_goals exact absurd rfl h

/-- H_LENHI and C_B alone signal, and leave the block in the search. -/
theorem exec_signals {i : Instr} {s t : State} (h : exec i s = .next t) (hev : t.ev ≠ .none) :
    ((∃ v, i = .hLenhi v) ∧ t.ev = .frameTooLarge
      ∨ (∃ v, i = .cB v ∧ t.ev = verdict s.ckA s.ckB s.rxA v))
    ∧ t.st = .seekingSync1 ∧ t.idx = 0 := by
  cases i with
  | reset => obtain rfl := execReset_next.1 h; exact absurd rfl hev
  | idle => obtain rfl := execIdle_next.1 h; exact absurd rfl hev
  | s1Hit => obtain ⟨_, _, rfl⟩ := execS1Hit_next.1 h; exact absurd rfl hev
  | s1Miss v => obtain ⟨_, _, rfl⟩ := execS1Miss_next.1 h; exact absurd rfl hev
  | s2Hit => obtain ⟨_, _, rfl⟩ := execS2Hit_next.1 h; exact absurd rfl hev
  | s2Resync => obtain ⟨_, _, rfl⟩ := execS2Resync_next.1 h; exact absurd rfl hev
  | s2Miss v => obtain ⟨_, _, rfl⟩ := execS2Miss_next.1 h; exact absurd rfl hev
  | hClass v => obtain ⟨_, rfl⟩ := execHClass_next.1 h; exact absurd rfl hev
  | hId v => obtain ⟨_, rfl⟩ := execHId_next.1 h; exact absurd rfl hev
  | hLenlo v => obtain ⟨_, rfl⟩ := execHLenlo_next.1 h; exact absurd rfl hev
  | hLenhi v =>
    obtain ⟨_, rfl⟩ := execHLenhi_next.1 h
    have hout := lengthOutcome_of_signals hev
    exact ⟨.inl ⟨⟨v, rfl⟩, congrArg Prod.snd hout⟩, congrArg Prod.fst hout, rfl⟩
  | pByte v => obtain ⟨_, _, _, rfl⟩ := execPByte_next.1 h; exact absurd rfl hev
  | cA v => obtain ⟨_, rfl⟩ := execCA_next.1 h; exact absurd rfl hev
  | cB v => obtain ⟨_, rfl⟩ := execCB_next.1 h; exact ⟨.inr ⟨v, rfl, rfl⟩, rfl, rfl⟩

theorem verdict_cases (ckA ckB rxA v : Byte) :
    verdict ckA ckB rxA v = .frameOk ∨ verdict ckA ckB rxA v = .ckMismatch := ite_eq_or_eq _ _ _

/-- Settles O38: what can signal, operation by operation; and five bytes are too few to end a framed run. -/
theorem eventsEndFramedRuns : Obligations.EventsEndFramedRuns := by
  refine ⟨fun s t c htick hev => ?signalled, fun s bs hs hst hlen => ?quiet⟩
  case signalled =>
    obtain ⟨i, hdecode, hexec⟩ := tick_next.1 htick
    obtain ⟨⟨⟨v, rfl⟩, hlarge⟩ | ⟨v, rfl, hverdict⟩, hend⟩ := exec_signals hexec hev
    · obtain rfl := inData_of_hLenhi hdecode
      exact ⟨.inl ⟨hdecode, hlarge⟩, hend⟩
    · obtain ⟨_, _, _, _, rfl⟩ := decodeKey_selectorKey_cB.1 hdecode
      rw [hverdict]
      exact ⟨.inr ⟨hdecode, verdict_cases _ _ _ _⟩, hend⟩
  case quiet =>
    refine ⟨exists_runCycles _ hs, eventTrace_of_framePos_add_le hs ?_⟩
    rwa [framePos_seekingSync1 hst, Nat.zero_add]

/-! ### The account of a run (R108) -/

/-- The run on `cs` leads from `s` to `t`, and its bytes are accounted for. -/
structure Accounted (s : State) (cs : List CycleInput) (t : State) : Prop where
  runCycles_eq : runCycles cs s = .next t
  bytes : (cs.filter fun c => c.inValid).length + framePos s
    = discardedTotal (opTrace cs s) + finishedTotal (opTrace cs s) + framePos t
  dropped : t.dropped = dropCount s.cfg.dropW s.dropped (discardedTotal (opTrace cs s))

section Account
variable {s t u : State} {c : CycleInput} {i : Instr}

theorem accounted_nil (hdropped : s.dropped < 2 ^ s.cfg.dropW) : Accounted s [] s :=
  ⟨rfl, rfl, (dropCount_zero hdropped).symm⟩

theorem opTrace_cons_exec (cs : List CycleInput) (hdecode : decodeKey (selectorKey s c) = some i)
    (hexec : exec i s = .next t) : opTrace (c :: cs) s = (i, t) :: opTrace cs t := by
  simp only [opTrace, hdecode, hexec]

/-- The balance of one cycle other than a reset: an idle cycle accepts no byte. -/
theorem tick_balance (hrst : c.rst = false) (hdecode : decodeKey (selectorKey s c) = some i)
    (hexec : exec i s = .next t) :
    (if c.inValid then 1 else 0) + framePos s = discardedBytes i + finishedBytes t + framePos t := by
  cases hvalid : c.inValid with
  | false =>
    obtain rfl := Option.some.inj ((decodeKey_selectorKey_idle.2 ⟨hrst, hvalid⟩).symm.trans hdecode)
    obtain rfl := execIdle_next.1 hexec
    rfl
  | true =>
    rw [if_pos rfl, Nat.add_comm]
    exact byteBalance_of_decode hrst hvalid hdecode hexec

/-- One cycle more at the front: bytes and drops add up. -/
theorem Accounted.cons {cs : List CycleInput} (hrst : c.rst = false) (hdropped : s.dropped < 2 ^ s.cfg.dropW)
    (hdecode : decodeKey (selectorKey s c) = some i) (hexec : exec i s = .next t) (h : Accounted t cs u) :
    Accounted s (c :: cs) u := by
  have htrace := opTrace_cons_exec cs hdecode hexec
  have htotals : discardedTotal (opTrace (c :: cs) s) = discardedBytes i + discardedTotal (opTrace cs t)
      ∧ finishedTotal (opTrace (c :: cs) s) = finishedBytes t + finishedTotal (opTrace cs t) := by
    rw [htrace]
    exact ⟨rfl, rfl⟩
  obtain ⟨hdiscarded, hfinished⟩ := htotals
  refine ⟨?run, ?bytes, ?dropped⟩
  case run => rw [runCycles_cons cs (tick_next.2 ⟨i, hdecode, hexec⟩), h.runCycles_eq]
  case bytes =>
    have hbalance := tick_balance hrst hdecode hexec
    have hbytes := h.bytes
    have haccepted : ((c :: cs).filter fun c => c.inValid).length
        = (if c.inValid then 1 else 0) + (cs.filter fun c => c.inValid).length := by
      rw [List.filter_cons]
      split_ifs <;> simp [Nat.add_comm]
    rw [hdiscarded, hfinished, haccepted]
    omega
  case dropped =>
    obtain ⟨hcfg, _⟩ := exec_keeps_cfg_input hexec
    have hreset : i ≠ .reset := by
      rintro rfl
      rw [decodeKey_selectorKey_reset, hrst] at hdecode
      cases hdecode
    rw [h.dropped, hcfg, exec_dropped hexec hreset hdropped, dropCount_add, hdiscarded]

theorem exists_accounted {cs : List CycleInput} (hs : s.structural) (hdropped : s.dropped < 2 ^ s.cfg.dropW)
    (hcs : ∀ c ∈ cs, c.rst = false) : ∃ t, Accounted s cs t := by
  induction cs generalizing s with
  | nil => exact ⟨s, accounted_nil hdropped⟩
  | cons c cs ih =>
    rw [List.forall_mem_cons] at hcs
    obtain ⟨hrst, hcs⟩ := hcs
    obtain ⟨r, htick⟩ := structuralStatesNeverStop s c hs
    obtain ⟨i, hdecode, hexec⟩ := tick_next.1 htick
    obtain ⟨hcfg, _⟩ := exec_keeps_cfg_input hexec
    obtain ⟨u, h⟩ := ih (exec_keeps_structural hs hexec) (hcfg ▸ exec_dropped_lt hexec hdropped) hcs
    exact ⟨u, h.cons hrst hdropped hdecode hexec⟩

end Account

/-- Settles O44, by induction on the run with the balance of one cycle; from SEEKING_SYNC1 no byte is held at the start. -/
theorem byteAccounting : Obligations.ByteAccounting := by
  intro s cs hs ⟨_, hdropped, _⟩ hst hcs
  obtain ⟨t, h⟩ := exists_accounted hs hdropped hcs
  have hbytes := h.bytes
  rw [framePos_seekingSync1 hst, Nat.add_zero] at hbytes
  exact ⟨t, h.runCycles_eq, hbytes, h.dropped⟩

/-! ### The search is reached again (R110) -/

theorem searching_iff_framePos_le_one {s : State} : s.searching ↔ framePos s ≤ 1 := by
  cases hst : s.st with
  | seekingSync1 => simp [State.searching, framePos, hst]
  | seekingSync2 => simp [State.searching, framePos, hst]
  | readingHeader | readingPayload | readingChecksum => simp [State.searching, framePos, hst]; omega

/-- The position advances by one until the search is reached, and it is bounded (R13). -/
theorem exists_searching_of_framePos {s : State} {bs : List Byte} (hs : s.structural)
    (h : s.cfg.maxLen.val + 8 ≤ framePos s + bs.length) :
    ∃ k t, k ≤ bs.length ∧ feedAll (bs.take k) s = .next t ∧ t.searching := by
  induction bs generalizing s with
  | nil =>
    have hle := framePos_le hs
    rw [List.length_nil] at h
    omega
  | cons v bs ih =>
    obtain ⟨_, t, hfeed, hpos⟩ := framePositionAdvances s v hs
    obtain ⟨i, _, hexec⟩ := tick_next.1 hfeed
    obtain ⟨hcfg, _⟩ := exec_keeps_cfg_input hexec
    obtain hpos | hpos : framePos t = framePos s + 1 ∨ framePos t ≤ 1 := hpos.imp_right (by omega)
    · rw [List.length_cons] at h
      obtain ⟨k, u, hk, hrun, hu⟩ := ih (exec_keeps_structural hs hexec) (by rw [hcfg]; omega)
      exact ⟨k + 1, u, Nat.succ_le_succ hk, (runCycles_cons _ hfeed).trans hrun, hu⟩
    · exact ⟨1, t, Nat.le_add_left .., runCycles_cons [] hfeed, searching_iff_framePos_le_one.2 hpos⟩

/-- Settles O45: a state that is not searching already holds two bytes. -/
theorem searchIsReachedAgain : Obligations.SearchIsReachedAgain := by
  intro s bs hs hlen
  by_cases hsearch : s.searching
  · exact ⟨0, s, Nat.zero_le _, rfl, hsearch⟩
  · rw [searching_iff_framePos_le_one] at hsearch
    exact exists_searching_of_framePos hs (by omega)

end Sys2Proof.Machine

/-! ## Idle cycles (spec/45_properties.md R107)

Every operation writes `ev` and none reads it, so a run forgets the `ev` it starts from; an idle cycle changes nothing
else. -/

namespace Sys2Proof.Machine

/-- The cycles of a run that are not idle. -/
def withoutIdles (cs : List CycleInput) : List CycleInput := cs.filter fun c => c.rst || c.inValid

theorem withoutIdles_cons_idle {c : CycleInput} (cs : List CycleInput) (hrst : c.rst = false)
    (hvalid : c.inValid = false) : withoutIdles (c :: cs) = withoutIdles cs := by
  simp [withoutIdles, hrst, hvalid]

theorem withoutIdles_cons {c : CycleInput} (cs : List CycleInput) (hc : (c.rst || c.inValid) = true) :
    withoutIdles (c :: cs) = c :: withoutIdles cs := List.filter_cons_of_pos hc

section Idle
variable (s : State) (e : Event) (c : CycleInput) (cs : List CycleInput)

theorem exec_setEvent (i : Instr) : exec i (s.setEvent e) = exec i s := by cases i <;> rfl

theorem selectorKey_setEvent : selectorKey (s.setEvent e) c = selectorKey s c := rfl

theorem tick_setEvent : tick (s.setEvent e) c = tick s c := by
  simp only [tick, selectorKey_setEvent, exec_setEvent]

theorem opTrace_setEvent : opTrace cs (s.setEvent e) = opTrace cs s := by
  cases cs with
  | nil => rfl
  | cons c cs => simp only [opTrace, selectorKey_setEvent, exec_setEvent]

theorem eventTrace_setEvent : eventTrace cs (s.setEvent e) = eventTrace cs s := by
  rw [eventTrace, opTrace_setEvent, eventTrace]

/-- How a run ends, but for `ev`. -/
def endButEvent : Host.Outcome State Fault Refusal := mapNext (State.setEvent · .none) (runCycles cs s)

theorem endButEvent_setEvent : endButEvent (s.setEvent e) cs = endButEvent s cs := by
  cases cs with
  | nil => rfl
  | cons c cs => simp only [endButEvent, runCycles, tick_setEvent]

variable {s c}

theorem endButEvent_cons {t : State} (h : tick s c = .next t) : endButEvent s (c :: cs) = endButEvent t cs := by
  rw [endButEvent, runCycles_cons cs h, endButEvent]

variable {cs}

theorem eventTrace_endButEvent_withoutIdles (hs : s.structural) :
    eventTrace cs s = eventTrace (withoutIdles cs) s ∧ endButEvent s cs = endButEvent s (withoutIdles cs) := by
  induction cs generalizing s with
  | nil => exact ⟨rfl, rfl⟩
  | cons c cs ih =>
    cases hc : c.rst || c.inValid with
    | true =>
      obtain ⟨t, htick⟩ := structuralStatesNeverStop s c hs
      obtain ⟨i, _, hexec⟩ := tick_next.1 htick
      obtain ⟨htrace, hend⟩ := ih (exec_keeps_structural hs hexec)
      rw [withoutIdles_cons cs hc, eventTrace_cons _ htick, eventTrace_cons _ htick, endButEvent_cons _ htick,
        endButEvent_cons _ htick, htrace, hend]
      exact ⟨rfl, rfl⟩
    | false =>
      obtain ⟨hrst, hvalid⟩ := Bool.or_eq_false_iff.1 hc
      have htick : tick s c = .next (s.setEvent .none) := tick_of_not_inValid hrst hvalid
      obtain ⟨htrace, hend⟩ := ih hs
      rw [withoutIdles_cons_idle cs hrst hvalid, eventTrace_cons _ htick, endButEvent_cons _ htick, eventTrace_setEvent,
        endButEvent_setEvent, htrace, hend]
      exact ⟨rfl, rfl⟩

end Idle

/-- Settles O43, by induction on the run: an idle cycle signals nothing and the rest of the run forgets it. -/
theorem idleCyclesAreInvisible : Obligations.IdleCyclesAreInvisible := by
  intro s cs hs
  obtain ⟨htrace, hend⟩ := eventTrace_endButEvent_withoutIdles (cs := cs) hs
  obtain ⟨t, ht⟩ := exists_runCycles cs hs
  obtain ⟨u, hu⟩ := exists_runCycles (withoutIdles cs) hs
  rw [endButEvent, endButEvent, ht, hu] at hend
  exact ⟨htrace, t, u, ht, hu, next_inj.1 hend⟩

end Sys2Proof.Machine

/-! ## The verdict (spec/45_properties.md R109, R119)

At C_B the registers and the buffer hold a whole frame whose checksum is in the accumulators, so the comparison of C_B is the
one `decode` makes on the complete run. -/

namespace Sys2Proof.Machine

section Verdict
variable {s t : State} {p : List Byte} {v : Byte}

/-- The header bytes and a payload of `len` bytes are the covered bytes of a frame (R48). -/
theorem headerBytes_append (hp : p.length = s.len.toNat) : headerBytes s ++ p = coveredBytes s.cls s.mid p := by
  have hlo : loByte s.len = BitVec.ofNat 8 (s.len.toNat % 256) := BitVec.eq_of_toNat_eq (by simp)
  have hhi : hiByte s.len = BitVec.ofNat 8 (s.len.toNat / 256) := BitVec.eq_of_toNat_eq (by simp; omega)
  rw [headerBytes, coveredBytes, hp, hlo, hhi]

theorem completeRun_eq_framed (hp : p.length = s.len.toNat) :
    completeRun s p v = framed s.cls s.mid p (s.rxA, v) [] := by
  rw [completeRun, List.append_assoc _ (headerBytes s), headerBytes_append hp, framed, List.append_nil]

/-- Throughout READING_CHECKSUM the whole payload is stored, and the accumulators are the checksum of all covered bytes
(R106). -/
theorem exists_stored_payload (hs : s.structural) (hck : s.checksumOk) (hst : s.st = .readingChecksum) :
    ∃ p, Memory.readRange s.pbuf 0 s.len.toNat = some p ∧ p.length = s.len.toNat
      ∧ fletcher8 (coveredBytes s.cls s.mid p) = (s.ckA, s.ckB) := by
  obtain ⟨_, hchecksum, _⟩ := hs
  obtain ⟨_, hcnt, _⟩ := hchecksum hst
  obtain ⟨p, hp, hpck⟩ := exists_payload_of_checksumOk hck (.inr hst)
  rw [hcnt] at hp
  have hlen := Memory.readRange_length hp
  exact ⟨p, hp, hlen, by rw [← headerBytes_append hlen, hpck]⟩

/-- C_B compares the two bytes received with the accumulators (R92). -/
theorem verdict_eq_frameOk_iff_pair {ckA ckB rxA : Byte} :
    verdict ckA ckB rxA v = .frameOk ↔ (ckA, ckB) = (rxA, v) := by
  rw [verdict_eq_frameOk, Prod.mk.injEq, eq_comm, eq_comm (a := v)]

end Verdict

/-- Settles O40: the stored payload makes the complete run a framed one, on which `decode` compares the same two bytes. -/
theorem streamingVerdictEqualsDecode : Obligations.StreamingVerdictEqualsDecode := by
  intro s v ⟨hs, _, hck⟩ hst hidx
  obtain ⟨p, hp, hlen, hpck⟩ := exists_stored_payload hs hck hst
  obtain ⟨f, hf, hcls, hmid, rfl⟩ := State.describedFrame_of_readRange hp
  have hdecode : decodeFrame (completeRun s f.payload v) =
      if (s.ckA, s.ckB) = (s.rxA, v) then .ok f else .error .checksumMismatch := by
    rw [completeRun_eq_framed hlen, decodeFrame_framed _ _ _ _ f.bound, hpck, ← hcls, ← hmid]
  have hcb : exec (.cB v) s = .next (s.signal (verdict s.ckA s.ckB s.rxA v)) := execCB_next.2 ⟨⟨hst, hidx⟩, rfl⟩
  have hrun : (completeRun s f.payload v).length = s.len.toNat + 8 := by
    rw [completeRun_eq_framed hlen, framed_length, hlen, List.length_nil, Nat.add_zero]
  refine ⟨_, f.payload, f, hp, hcls, hmid, rfl, hrun, hcb, ?_⟩
  rw [hdecode, State.signal_ev]
  by_cases hmatch : (s.ckA, s.ckB) = (s.rxA, v)
  · have hev := verdict_eq_frameOk_iff_pair.2 hmatch
    have hdelivered : (s.signal .frameOk).deliveredFrame = some f := (State.deliveredFrame_of_frameOk rfl).trans hf
    simp [hev, hmatch, hdelivered]
  · have hev : verdict s.ckA s.ckB s.rxA v = .ckMismatch :=
      (verdict_cases _ _ _ _).resolve_left (mt verdict_eq_frameOk_iff_pair.1 hmatch)
    have hdelivered : (s.signal .ckMismatch).deliveredFrame = none := State.deliveredFrame_of_ne_frameOk (by simp)
    simp [hev, hmatch, hdelivered]

/-- Settles O41: C_B alone signals FRAME_OK, when the accumulators match; the two runs are those of R119. -/
theorem frameOkProvesChecksum : Obligations.FrameOkProvesChecksum := by
  refine ⟨fun s t c ⟨hs, _, hck⟩ htick hev => ?_, by decide, by decide⟩
  obtain ⟨i, hdecode, hexec⟩ := tick_next.1 htick
  obtain ⟨⟨_, hlarge⟩ | ⟨v, rfl, hverdict⟩, _⟩ := exec_signals hexec (by simp [hev])
  · simp [hev] at hlarge
  obtain ⟨_, _, hst, _, rfl⟩ := decodeKey_selectorKey_cB.1 hdecode
  obtain ⟨p, hp, hlen, hpck⟩ := exists_stored_payload hs hck hst
  rw [hev, eq_comm, verdict_eq_frameOk_iff_pair] at hverdict
  obtain ⟨_, rfl⟩ := execCB_next.1 hexec
  rw [hverdict, ← headerBytes_append hlen] at hpck
  exact ⟨p, hp, hpck⟩

end Sys2Proof.Machine

/-! ## A frame in the stream (spec/45_properties.md R112, R114, R116 to R118)

While the block takes a frame its registers hold the bytes up to the frame position, and nothing is signalled until the last
byte it takes: the checksum's, or the length's of a frame that does not fit. -/

namespace Sys2Proof.Machine

/-- The bytes of a frame of `n` payload bytes that the block takes before it is back in the search (R83, R92). -/
def takenLength (maxLen n : Nat) : Nat := if maxLen < n then 6 else n + 8

theorem takenLength_of_fits {maxLen n : Nat} (h : n ≤ maxLen) : takenLength maxLen n = n + 8 :=
  if_neg (Nat.not_lt.2 h)

theorem takenLength_of_oversize {maxLen n : Nat} (h : maxLen < n) : takenLength maxLen n = 6 := if_pos h

/-- Of a frame whose sixth byte is not the last one taken the block takes all. -/
theorem lt_of_lt_takenLength {maxLen n k : Nat} (h : k < takenLength maxLen n) (hk : 6 ≤ k) :
    n ≤ maxLen ∧ k < n + 8 := by
  unfold takenLength at h
  split_ifs at h with hbig
  · omega
  · exact ⟨Nat.not_lt.1 hbig, h⟩

/-- The registers and the buffer hold the bytes of the frame up to the frame position, at least one. -/
structure HoldsFrame (c i : Byte) (p : List Byte) (ckA : Byte) (s : State) : Prop where
  started : 1 ≤ framePos s
  cls : 3 ≤ framePos s → s.cls = c
  mid : 4 ≤ framePos s → s.mid = i
  lenLo : framePos s = 5 → loByte s.len = BitVec.ofNat 8 (p.length % 256)
  len : 6 ≤ framePos s → s.len.toNat = p.length
  payload : 6 ≤ framePos s → Memory.readRange s.pbuf 0 s.cnt.toNat = some (p.take s.cnt.toNat)
  rxA : framePos s = p.length + 7 → s.rxA = ckA

/-- The block takes one byte of a frame, not the last: it signals nothing, drops nothing and holds one byte more. -/
structure FrameStep (c i : Byte) (p : List Byte) (ckA : Byte) (s : State) (v : Byte) (t : State) : Prop where
  feed_eq : feed s v = .next t
  ev : t.ev = .none
  pos : framePos t = framePos s + 1
  dropped : t.dropped = s.dropped
  holds : HoldsFrame c i p ckA t

/-! ### One byte, by the state -/

section Step
variable {c i v : Byte} {p tail : List Byte} {ck : Byte × Byte} {s t : State}

/-- Up to the length's first byte, only the header bytes taken so far are held. -/
theorem holdsFrame_of_le_five {n : Nat} {ckA : Byte} (hpos : framePos s = n) (h1 : 1 ≤ n) (h5 : n ≤ 5)
    (hcls : 3 ≤ n → s.cls = c) (hmid : 4 ≤ n → s.mid = i)
    (hlo : n = 5 → loByte s.len = BitVec.ofNat 8 (p.length % 256)) : HoldsFrame c i p ckA s := by
  subst hpos
  exact ⟨h1, hcls, hmid, hlo, by omega, by omega, by omega⟩

/-- From the whole header on, class, id and length are those of the frame. -/
theorem holdsFrame_of_six_le {ckA : Byte} (hpos : 6 ≤ framePos s) (hcls : s.cls = c) (hmid : s.mid = i)
    (hlen : s.len.toNat = p.length) (hp : Memory.readRange s.pbuf 0 s.cnt.toNat = some (p.take s.cnt.toNat))
    (hrx : framePos s = p.length + 7 → s.rxA = ckA) : HoldsFrame c i p ckA s :=
  ⟨by omega, fun _ => hcls, fun _ => hmid, by omega, fun _ => hlen, fun _ => hp, hrx⟩

theorem framePos_of_readingHeader_idx {k : BitVec 2} (hst : s.st = .readingHeader) (hidx : s.idx = k) :
    framePos s = 2 + k.toNat := by
  rw [framePos_readingHeader hst, hidx]

/-- The first byte of a frame: S1_HIT holds it, S2_RESYNC holds it for the older `B5` and drops that one (R70, R73). -/
theorem exists_feed_sync1 (hst : s.searching) (hidx : s.idx = 0) :
    ∃ t, feed s sync1 = .next t ∧ t.ev = .none ∧ framePos t = 1
      ∧ t.dropped = if s.st = .seekingSync1 then s.dropped else dropCount s.cfg.dropW s.dropped 1 := by
  obtain hst | hst := hst
  · have hfeed := feed_seekingSync1 sync1 hst
    rw [if_pos rfl, execS1Hit_next.2 ⟨hst, hidx, rfl⟩] at hfeed
    exact ⟨_, hfeed, rfl, rfl, (if_pos hst).symm⟩
  · have hfeed := feed_seekingSync2 sync1 hst
    rw [if_neg sync1_ne_sync2, if_pos rfl, execS2Resync_next.2 ⟨hst, hidx, rfl⟩] at hfeed
    exact ⟨_, hfeed, rfl, framePos_seekingSync2 hst, (if_neg (by simp [hst])).symm⟩

theorem exists_frameStep_seekingSync2 (hst : s.st = .seekingSync2) (hidx : s.idx = 0)
    (hv : (framed c i p ck tail)[framePos s]? = some v) : ∃ t, FrameStep c i p ck.1 s v t := by
  have hpos := framePos_seekingSync2 hst
  rw [hpos] at hv
  obtain rfl : sync2 = v := Option.some.inj hv
  have hfeed := feed_seekingSync2 sync2 hst
  rw [if_pos rfl, execS2Hit_next.2 ⟨hst, hidx, rfl⟩] at hfeed
  exact ⟨_, hfeed, rfl, by rw [hpos]; rfl, rfl,
    holdsFrame_of_le_five (n := 2) rfl (by omega) (by omega) (by omega) (by omega) (by omega)⟩

theorem exists_frameStep_hClass (hst : s.st = .readingHeader) (hidx : s.idx = 0)
    (hv : (framed c i p ck tail)[framePos s]? = some v) : ∃ t, FrameStep c i p ck.1 s v t := by
  have hpos := framePos_of_readingHeader_idx hst hidx
  rw [hpos] at hv
  obtain rfl : c = v := Option.some.inj hv
  have hfeed := feed_readingHeader c hst
  rw [hidx, if_pos rfl, execHClass_next.2 ⟨⟨hst, hidx⟩, rfl⟩] at hfeed
  have hpos' := framePos_of_readingHeader_idx (s := { s.accumulate c with cls := c, idx := 1, ev := .none }) hst rfl
  exact ⟨_, hfeed, rfl, by rw [hpos, hpos']; rfl, rfl,
    holdsFrame_of_le_five (n := 3) hpos' (by omega) (by omega) (fun _ => rfl) (by omega) (by omega)⟩

theorem exists_frameStep_hId (h : HoldsFrame c i p ck.1 s) (hst : s.st = .readingHeader) (hidx : s.idx = 1)
    (hv : (framed c i p ck tail)[framePos s]? = some v) : ∃ t, FrameStep c i p ck.1 s v t := by
  have hpos : framePos s = 3 := framePos_of_readingHeader_idx hst hidx
  rw [hpos] at hv
  obtain rfl : i = v := Option.some.inj hv
  have hfeed := feed_readingHeader i hst
  rw [hidx, if_neg (by decide), if_pos rfl, execHId_next.2 ⟨⟨hst, hidx⟩, rfl⟩] at hfeed
  have hpos' := framePos_of_readingHeader_idx (s := { s.accumulate i with mid := i, idx := 2, ev := .none }) hst rfl
  exact ⟨_, hfeed, rfl, by rw [hpos, hpos']; rfl, rfl,
    holdsFrame_of_le_five (n := 4) hpos' (by omega) (by omega) (fun _ => h.cls hpos.ge) (fun _ => rfl) (by omega)⟩

theorem exists_frameStep_hLenlo (h : HoldsFrame c i p ck.1 s) (hst : s.st = .readingHeader) (hidx : s.idx = 2)
    (hv : (framed c i p ck tail)[framePos s]? = some v) : ∃ t, FrameStep c i p ck.1 s v t := by
  have hpos : framePos s = 4 := framePos_of_readingHeader_idx hst hidx
  rw [hpos] at hv
  have hlo : BitVec.ofNat 8 (p.length % 256) = v := Option.some.inj hv
  have hfeed := feed_readingHeader v hst
  rw [hidx, if_neg (by decide), if_neg (by decide), if_pos rfl, execHLenlo_next.2 ⟨⟨hst, hidx⟩, rfl⟩] at hfeed
  have hpos' := framePos_of_readingHeader_idx
    (s := { s.accumulate v with len := v.zeroExtend 16, idx := 3, ev := .none }) hst rfl
  exact ⟨_, hfeed, rfl, by rw [hpos, hpos']; rfl, rfl,
    holdsFrame_of_le_five (n := 5) hpos' (by omega) (by omega) (fun _ => h.cls (by omega)) (fun _ => h.mid hpos.ge)
      fun _ => by rw [hlo]; exact loByte_zeroExtend v⟩

/-- The two length bytes of a frame are its length (R47). -/
theorem u16le_lengthBytes {n : Nat} (hn : n ≤ 65535) :
    (u16le (BitVec.ofNat 8 (n % 256)) (BitVec.ofNat 8 (n / 256))).toNat = n := by
  rw [u16le_toNat]
  simp
  omega

theorem lengthOutcome_of_le {maxLen : Nat} {l : Word16} (h : l.toNat ≤ maxLen) :
    lengthOutcome maxLen l = (if l = 0 then .readingChecksum else .readingPayload, .none) := by
  rw [lengthOutcome, if_neg (Nat.not_lt.2 h)]
  split_ifs <;> rfl

/-- After the length of a frame that fits, the byte expected is at offset 6 (R83). -/
theorem framePos_of_lengthOutcome {maxLen : Nat} (hst : t.st = (lengthOutcome maxLen t.len).1)
    (hfit : t.len.toNat ≤ maxLen) (hcnt : t.cnt = 0) (hidx : t.idx = 0) : framePos t = 6 := by
  rw [lengthOutcome_of_le hfit] at hst
  simp only at hst
  split_ifs at hst with hzero
  · rw [framePos_readingChecksum hst, hzero, hidx]; rfl
  · rw [framePos_readingPayload hst, hcnt]; rfl

/-- H_LENHI on the frame's byte: the length is whole (R83). -/
theorem feed_frame_hLenhi (h : HoldsFrame c i p ck.1 s) (hp : p.length ≤ 65535) (hst : s.st = .readingHeader)
    (hidx : s.idx = 3) (hv : (framed c i p ck tail)[framePos s]? = some v) :
    exec (.hLenhi v) s = feed s v ∧ (u16le (loByte s.len) v).toNat = p.length := by
  have hpos : framePos s = 5 := framePos_of_readingHeader_idx hst hidx
  rw [hpos] at hv
  have hhi : BitVec.ofNat 8 (p.length / 256) = v := Option.some.inj hv
  have hfeed := feed_readingHeader v hst
  rw [hidx, if_neg (by decide), if_neg (by decide), if_neg (by decide)] at hfeed
  exact ⟨hfeed.symm, by rw [h.lenLo hpos, ← hhi, u16le_lengthBytes hp]⟩

theorem exists_frameStep_hLenhi (h : HoldsFrame c i p ck.1 s) (hp : p.length ≤ 65535) (hst : s.st = .readingHeader)
    (hidx : s.idx = 3) (hfit : p.length ≤ s.cfg.maxLen.val)
    (hv : (framed c i p ck tail)[framePos s]? = some v) : ∃ t, FrameStep c i p ck.1 s v t := by
  have hpos : framePos s = 5 := framePos_of_readingHeader_idx hst hidx
  obtain ⟨hfeed, hlen⟩ := feed_frame_hLenhi h hp hst hidx hv
  obtain ⟨t, ht⟩ : ∃ t, exec (.hLenhi v) s = .next t := ⟨_, execHLenhi_next.2 ⟨⟨hst, hidx⟩, rfl⟩⟩
  obtain ⟨_, hnext⟩ := execHLenhi_next.1 ht
  have hpos' : framePos t = 6 := by
    rw [← hnext]
    exact framePos_of_lengthOutcome rfl (hlen.trans_le hfit) rfl rfl
  subst hnext
  have hev := congrArg Prod.snd (lengthOutcome_of_le (hlen.trans_le hfit))
  exact ⟨_, hfeed.symm.trans ht, hev, by rw [hpos, hpos'], rfl,
    holdsFrame_of_six_le hpos'.ge (h.cls (by omega)) (h.mid (by omega)) hlen rfl (by omega)⟩

theorem exists_frameStep_pByte (h : HoldsFrame c i p ck.1 s) (hst : s.st = .readingPayload) (hidx : s.idx = 0)
    (hcnt : s.cnt.toNat < s.len.toNat) (hmax : s.len.toNat ≤ s.cfg.maxLen.val)
    (hv : (framed c i p ck tail)[framePos s]? = some v) : ∃ t, FrameStep c i p ck.1 s v t := by
  have hpos := framePos_readingPayload hst
  have hlen := h.len (by omega)
  have hread := h.payload (by omega)
  have hlt : s.cnt.toNat < p.length := hlen ▸ hcnt
  rw [hpos, framed_getElem?_payload _ _ _ _ _ hlt, List.getElem?_eq_getElem hlt, Option.some_inj] at hv
  have hsucc : (s.cnt + 1).toNat = s.cnt.toNat + 1 := by bv_omega
  have hread' : Memory.readRange (Memory.write s.pbuf s.cnt.toNat v) 0 (s.cnt + 1).toNat
      = some (p.take (s.cnt + 1).toNat) := by
    rw [hsucc, Memory.readRange_write v hread, ← hv, List.take_concat_get' p _ hlt]
  have hfeed := feed_readingPayload v hst
  obtain ⟨t, ht⟩ : ∃ t, exec (.pByte v) s = .next t :=
    ⟨_, execPByte_next.2 ⟨hst, ⟨hidx, hcnt⟩, hcnt.trans_le hmax, rfl⟩⟩
  obtain ⟨_, _, _, hnext⟩ := execPByte_next.1 ht
  have hpos' : framePos t = 6 + s.cnt.toNat + 1 := by
    rw [← hnext]
    exact framePos_afterPayloadByte rfl rfl rfl rfl hcnt
  subst hnext
  exact ⟨_, hfeed.trans ht, rfl, by rw [hpos, hpos'], rfl,
    holdsFrame_of_six_le (by omega) (h.cls (by omega)) (h.mid (by omega)) hlen hread' (by omega)⟩

theorem exists_frameStep_cA (h : HoldsFrame c i p ck.1 s) (hst : s.st = .readingChecksum) (hidx : s.idx = 0)
    (hv : (framed c i p ck tail)[framePos s]? = some v) : ∃ t, FrameStep c i p ck.1 s v t := by
  have hpos : framePos s = 6 + s.len.toNat := by rw [framePos_readingChecksum hst, hidx]; rfl
  have hlen := h.len (by omega)
  rw [hpos, hlen, framed_getElem?_ckA, Option.some_inj] at hv
  have hfeed := feed_readingChecksum v hst (by simp [hidx])
  rw [if_pos hidx, execCA_next.2 ⟨⟨hst, hidx⟩, rfl⟩] at hfeed
  have hpos' : framePos { s with rxA := v, idx := 1, ev := .none } = 6 + s.len.toNat + 1 := framePos_readingChecksum hst
  exact ⟨_, hfeed, rfl, by rw [hpos, hpos'], rfl,
    holdsFrame_of_six_le (by omega) (h.cls (by omega)) (h.mid (by omega)) hlen (h.payload (by omega)) fun _ => hv.symm⟩

/-- One byte of a frame, not the last one taken, in whatever state it is taken. -/
theorem exists_frameStep (hs : s.structural) (hp : p.length ≤ 65535) (h : HoldsFrame c i p ck.1 s)
    (hlast : framePos s + 1 < takenLength s.cfg.maxLen.val p.length)
    (hv : (framed c i p ck tail)[framePos s]? = some v) : ∃ t, FrameStep c i p ck.1 s v t := by
  obtain ⟨hidx, hchecksum, hpayload, _⟩ := hs
  cases hst : s.st with
  | seekingSync1 =>
    have := h.started
    rw [framePos_seekingSync1 hst] at this
    omega
  | seekingSync2 => exact exists_frameStep_seekingSync2 hst (hidx (.inr (.inl hst))) hv
  | readingHeader =>
    obtain h0 | h1 | h2 | h3 := idx_cases s.idx
    · exact exists_frameStep_hClass hst h0 hv
    · exact exists_frameStep_hId h hst h1 hv
    · exact exists_frameStep_hLenlo h hst h2 hv
    · have hpos : framePos s = 5 := framePos_of_readingHeader_idx hst h3
      obtain ⟨hfit, _⟩ := lt_of_lt_takenLength hlast (by omega)
      exact exists_frameStep_hLenhi h hp hst h3 hfit hv
  | readingPayload =>
    obtain ⟨hcnt, hmax⟩ := hpayload hst
    exact exists_frameStep_pByte h hst (hidx (.inr (.inr hst))) hcnt hmax hv
  | readingChecksum =>
    have hpos := framePos_readingChecksum hst
    have hlen := h.len (by omega)
    obtain ⟨_, hlt⟩ := lt_of_lt_takenLength hlast (by omega)
    have hzero : s.idx = 0 := by
      obtain ⟨hle, _⟩ := hchecksum hst
      bv_omega
    exact exists_frameStep_cA h hst hzero hv

end Step

/-! ### Runs on bytes and the frames they deliver -/

section Traces
variable {s t : State} {bs : List Byte} {cs : List CycleInput}

theorem feedAll_append (bs' : List Byte) (h : feedAll bs s = .next t) : feedAll (bs ++ bs') s = feedAll bs' t := by
  rw [feedAll, List.map_append, runCycles_append _ h, feedAll]

theorem eventTrace_bytes_append (bs' : List Byte) (h : feedAll bs s = .next t) :
    eventTrace ((bs ++ bs').map .byte) s = eventTrace (bs.map .byte) s ++ eventTrace (bs'.map .byte) t := by
  rw [List.map_append, eventTrace_append _ h]

theorem frameTrace_bytes_append (bs' : List Byte) (h : feedAll bs s = .next t) :
    frameTrace ((bs ++ bs').map .byte) s = frameTrace (bs.map .byte) s ++ frameTrace (bs'.map .byte) t := by
  rw [List.map_append, frameTrace, opTrace_append _ h, List.filterMap_append, frameTrace, frameTrace]

theorem frameTrace_singleton {c : CycleInput} (h : tick s c = .next t) :
    frameTrace [c] s = t.deliveredFrame.toList := by
  obtain ⟨i, htrace⟩ := opTrace_cons h
  rw [frameTrace, htrace, opTrace]
  cases hf : t.deliveredFrame <;> simp [hf]

/-- A frame is delivered by an event only (R126). -/
theorem frameTrace_of_quiet (h : eventTrace cs s = []) : frameTrace cs s = [] := by
  rw [frameTrace, List.filterMap_eq_nil_iff]
  intro r hr
  have hev : r.2.ev = .none := by
    have := List.filter_eq_nil_iff.1 h r.2.ev (List.mem_map_of_mem hr)
    simpa using this
  exact State.deliveredFrame_of_ne_frameOk (by simp [hev])

end Traces

/-! ### All bytes but the last one taken (R116) -/

/-- The first `k` bytes of a frame have been taken from the search: nothing was signalled, and a `B5` held before is the only
byte dropped. -/
structure Received (s : State) (c i : Byte) (p : List Byte) (k : Nat) (t : State) : Prop where
  feedAll_eq : feedAll ((frameBytes c i p).take k) s = .next t
  quiet : eventTrace (((frameBytes c i p).take k).map .byte) s = []
  pos : framePos t = k
  dropped : t.dropped = if s.st = .seekingSync1 then s.dropped else dropCount s.cfg.dropW s.dropped 1
  holds : HoldsFrame c i p (fletcher8 (coveredBytes c i p)).1 t

section Receive
variable {s t u : State} {c i v : Byte} {p : List Byte} {k : Nat}

theorem exists_received_one (hst : s.searching) (hidx : s.idx = 0) : ∃ t, Received s c i p 1 t := by
  obtain ⟨t, hfeed, hev, hpos, hdropped⟩ := exists_feed_sync1 hst hidx
  refine ⟨t, runCycles_cons [] hfeed, ?_, hpos, hdropped,
    holdsFrame_of_le_five hpos le_rfl (by omega) (by omega) (by omega) (by omega)⟩
  exact (eventTrace_singleton hfeed).trans (if_pos hev)

theorem frameBytes_take_succ (hv : (frameBytes c i p)[k]? = some v) :
    (frameBytes c i p).take (k + 1) = (frameBytes c i p).take k ++ [v] := by
  rw [List.take_add_one, hv, Option.toList_some]

theorem Received.succ (h : Received s c i p k t) (hv : (frameBytes c i p)[k]? = some v)
    (hstep : FrameStep c i p (fletcher8 (coveredBytes c i p)).1 t v u) : Received s c i p (k + 1) u := by
  have htake := frameBytes_take_succ hv
  refine ⟨?feed, ?quiet, by rw [hstep.pos, h.pos], hstep.dropped.trans h.dropped, hstep.holds⟩
  case feed => rw [htake, feedAll_append_singleton v h.feedAll_eq, hstep.feed_eq]
  case quiet =>
    rw [htake, eventTrace_bytes_append _ h.feedAll_eq, h.quiet, List.map_singleton, eventTrace_singleton hstep.feed_eq,
      if_pos hstep.ev, List.nil_append]

theorem takenLength_le (maxLen n : Nat) : takenLength maxLen n ≤ n + 8 := by
  unfold takenLength
  split_ifs <;> omega

theorem exists_received (hs : s.structural) (hst : s.searching) (hp : p.length ≤ 65535) (h1 : 1 ≤ k)
    (hk : k < takenLength s.cfg.maxLen.val p.length) : ∃ t, Received s c i p k t := by
  induction k, h1 using Nat.le_induction with
  | base =>
    obtain ⟨hidx, _⟩ := hs
    exact exists_received_one hst (hst.elim (hidx <| .inl ·) (hidx <| .inr <| .inl ·))
  | succ k _ ih =>
    obtain ⟨t, h⟩ := ih (by omega)
    have hcfg := runCycles_keeps_cfg h.feedAll_eq
    have hlt : k < (frameBytes c i p).length := by
      have := takenLength_le s.cfg.maxLen.val p.length
      rw [frameBytes_length]
      omega
    have hv := List.getElem?_eq_getElem hlt
    obtain ⟨u, hstep⟩ := exists_frameStep (runCycles_keeps_structural hs h.feedAll_eq) hp h.holds
      (by rw [h.pos, hcfg]; exact hk) (by rw [h.pos]; exact hv)
    exact ⟨u, h.succ hv hstep⟩

end Receive

/-! ### The last byte taken -/

section Last
variable {s t : State} {c i : Byte} {p : List Byte}

theorem readingHeader_of_framePos_eq_five (h : framePos s = 5) : s.st = .readingHeader ∧ s.idx = 3 := by
  cases hst : s.st with
  | seekingSync1 | seekingSync2 => simp [framePos, hst] at h
  | readingHeader =>
    rw [framePos_readingHeader hst] at h
    exact ⟨rfl, by bv_omega⟩
  | readingPayload => rw [framePos_readingPayload hst] at h; omega
  | readingChecksum => rw [framePos_readingChecksum hst] at h; omega

theorem readingChecksum_of_framePos (hs : s.structural) (h : framePos s = s.len.toNat + 7) :
    s.st = .readingChecksum ∧ s.idx = 1 := by
  obtain ⟨_, _, hpayload, _⟩ := hs
  cases hst : s.st with
  | seekingSync1 | seekingSync2 => simp [framePos, hst] at h
  | readingHeader => rw [framePos_readingHeader hst] at h; omega
  | readingPayload =>
    obtain ⟨hlt, _⟩ := hpayload hst
    rw [framePos_readingPayload hst] at h
    omega
  | readingChecksum =>
    rw [framePos_readingChecksum hst] at h
    exact ⟨rfl, by bv_omega⟩

/-- The bytes `bs` have been taken from `s`, and with the last of them the frame was delivered. -/
structure Delivered (s : State) (bs : List Byte) (c i : Byte) (p : List Byte) (t : State) : Prop where
  feedAll_eq : feedAll bs s = .next t
  events : eventTrace (bs.map .byte) s = [.frameOk]
  ev : t.ev = .frameOk
  st : t.st = .seekingSync1
  cls : t.cls = c
  mid : t.mid = i
  len : t.len.toNat = p.length
  cnt : t.cnt.toNat = p.length
  payload : Memory.readRange t.pbuf 0 p.length = some p
  frames : ∃ f : Frame, f.cls = c ∧ f.mid = i ∧ f.payload = p ∧ frameTrace (bs.map .byte) s = [f]

/-- C_B on the last byte of a frame: the accumulators are the checksum of the bytes held (R106), so they match. -/
theorem feed_last (hs : s.structural) (hck : s.checksumOk) (h : HoldsFrame c i p (fletcher8 (coveredBytes c i p)).1 s)
    (hpos : framePos s = p.length + 7) :
    feed s (fletcher8 (coveredBytes c i p)).2 = .next (s.signal .frameOk) ∧ s.cnt = s.len
      ∧ Memory.readRange s.pbuf 0 p.length = some p := by
  have hlen := h.len (by omega)
  obtain ⟨hst, hidx⟩ := readingChecksum_of_framePos hs (by rw [hpos, hlen])
  obtain ⟨q, hq, _, hqck⟩ := exists_stored_payload hs hck hst
  obtain ⟨_, hchecksum, _⟩ := hs
  obtain ⟨_, hcnt, _⟩ := hchecksum hst
  have hread := h.payload (by omega)
  rw [hcnt, hlen, List.take_length] at hread
  rw [hlen, hread, Option.some_inj] at hq
  subst hq
  rw [h.cls (by omega), h.mid (by omega)] at hqck
  have hverdict : verdict s.ckA s.ckB s.rxA (fletcher8 (coveredBytes c i p)).2 = .frameOk := by
    rw [verdict_eq_frameOk_iff_pair, ← hqck, h.rxA hpos]
  have hfeed := feed_readingChecksum (fletcher8 (coveredBytes c i p)).2 hst (by simp [hidx])
  rw [hidx, if_neg (by decide), execCB_next.2 ⟨⟨hst, hidx⟩, rfl⟩, hverdict] at hfeed
  exact ⟨hfeed, hcnt, hread⟩

/-- A frame that fits is delivered, from either state of the search (R112). -/
theorem exists_delivered (hs : s.structural) (hst : s.searching) (hp : p.length ≤ 65535)
    (hfit : p.length ≤ s.cfg.maxLen.val) :
    ∃ t, Delivered s (frameBytes c i p) c i p t
      ∧ t.dropped = if s.st = .seekingSync1 then s.dropped else dropCount s.cfg.dropW s.dropped 1 := by
  obtain ⟨t, h⟩ := exists_received (c := c) (i := i) (k := p.length + 7) hs hst hp (by omega)
    (by rw [takenLength_of_fits hfit]; omega)
  have hck := runCycles_keeps_checksumOk (checksumOk_of_searching hst) h.feedAll_eq
  obtain ⟨hfeed, hcnt, hread⟩ := feed_last (runCycles_keeps_structural hs h.feedAll_eq) hck h.holds h.pos
  have hcls := h.holds.cls (by rw [h.pos]; omega)
  have hmid := h.holds.mid (by rw [h.pos]; omega)
  have hlen := h.holds.len (by rw [h.pos]; omega)
  have hlast : (frameBytes c i p)[p.length + 7]? = some (fletcher8 (coveredBytes c i p)).2 := by
    rw [Nat.add_comm]
    exact framed_getElem?_ckB ..
  have htake := frameBytes_take_succ hlast
  rw [List.take_of_length_le (by rw [frameBytes_length])] at htake
  obtain ⟨f, hf, hfcls, hfmid, hfp⟩ := State.describedFrame_of_readRange (s := t.signal .frameOk) (p := p)
    (by rw [State.signal_pbuf, State.signal_len, hlen, hread])
  refine ⟨t.signal .frameOk, ⟨?feed, ?events, rfl, rfl, hcls, hmid, hlen, by rw [State.signal_cnt, hcnt, hlen], hread,
    f, hfcls.trans hcls, hfmid.trans hmid, hfp, ?frames⟩, h.dropped⟩
  case feed => rw [htake, feedAll_append_singleton _ h.feedAll_eq, hfeed]
  case events =>
    rw [htake, eventTrace_bytes_append _ h.feedAll_eq, h.quiet, List.map_singleton, eventTrace_singleton hfeed]
    simp
  case frames =>
    rw [htake, frameTrace_bytes_append _ h.feedAll_eq, frameTrace_of_quiet h.quiet, List.map_singleton,
      frameTrace_singleton hfeed, State.deliveredFrame_of_frameOk rfl, hf]
    rfl

/-- H_LENHI on the sixth byte of a frame that does not fit ends the run (R83). -/
theorem exists_aborted (hs : s.structural) (hst : s.searching) (hp : p.length ≤ 65535)
    (hbig : s.cfg.maxLen.val < p.length) :
    ∃ t, feedAll ((frameBytes c i p).take 6) s = .next t
      ∧ eventTrace (((frameBytes c i p).take 6).map .byte) s = [.frameTooLarge]
      ∧ frameTrace (((frameBytes c i p).take 6).map .byte) s = []
      ∧ t.ev = .frameTooLarge ∧ t.st = .seekingSync1 ∧ t.len.toNat = p.length := by
  obtain ⟨t, h⟩ := exists_received (c := c) (i := i) (k := 5) hs hst hp (by omega)
    (by rw [takenLength_of_oversize hbig]; omega)
  obtain ⟨hhead, hidx⟩ := readingHeader_of_framePos_eq_five h.pos
  have hhi : (frameBytes c i p)[5]? = some (BitVec.ofNat 8 (p.length / 256)) := rfl
  obtain ⟨hfeed, hlen⟩ := feed_frame_hLenhi h.holds hp hhead hidx (by rw [h.pos]; exact hhi)
  have hout : lengthOutcome t.cfg.maxLen.val (u16le (loByte t.len) (BitVec.ofNat 8 (p.length / 256)))
      = (.seekingSync1, .frameTooLarge) := by
    rw [lengthOutcome, hlen, runCycles_keeps_cfg h.feedAll_eq, if_pos hbig]
  obtain ⟨u, hu⟩ : ∃ u, exec (.hLenhi (BitVec.ofNat 8 (p.length / 256))) t = .next u :=
    ⟨_, execHLenhi_next.2 ⟨⟨hhead, hidx⟩, rfl⟩⟩
  obtain ⟨_, hnext⟩ := execHLenhi_next.1 hu
  have hev : u.ev = .frameTooLarge := by rw [← hnext]; exact congrArg Prod.snd hout
  rw [hfeed] at hu
  rw [frameBytes_take_succ hhi]
  refine ⟨u, ?feed, ?events, ?frames, hev, ?st, ?len⟩
  case feed => rw [feedAll_append_singleton _ h.feedAll_eq, hu]
  case events =>
    rw [eventTrace_bytes_append _ h.feedAll_eq, h.quiet, List.map_singleton, eventTrace_singleton hu, hev]
    simp
  case frames =>
    rw [frameTrace_bytes_append _ h.feedAll_eq, frameTrace_of_quiet h.quiet, List.map_singleton,
      frameTrace_singleton hu, State.deliveredFrame_of_ne_frameOk (by simp [hev])]
    rfl
  case st => rw [← hnext]; exact congrArg Prod.fst hout
  case len => rw [← hnext]; exact hlen

/-! ### Garbage before the frame (R114) -/

/-- A byte held by the search is dropped when the frame's own first byte takes its place. -/
theorem dropped_of_held (hst : s.searching) (hdropped : s.dropped < 2 ^ s.cfg.dropW) :
    (if s.st = .seekingSync1 then s.dropped else dropCount s.cfg.dropW s.dropped 1)
      = dropCount s.cfg.dropW s.dropped (framePos s) := by
  obtain hst | hst := hst
  · rw [if_pos hst, framePos_seekingSync1 hst, dropCount_zero hdropped]
  · rw [if_neg (by simp [hst]), framePos_seekingSync2 hst]

theorem searching_of_st_stAfter {last : Option Byte} (h : s.st = stAfter last) : s.searching := by
  unfold stAfter at h
  split_ifs at h
  · exact .inr h
  · exact .inl h

/-- Bytes that were searched through come before the frame and change nothing of its delivery. -/
theorem Searched.delivered {g bs : List Byte} {u : State} (h : Searched s g t) (hd : Delivered t bs c i p u) :
    Delivered s (g ++ bs) c i p u := by
  obtain ⟨f, hfcls, hfmid, hfp, hframes⟩ := hd.frames
  refine ⟨?feed, ?events, hd.ev, hd.st, hd.cls, hd.mid, hd.len, hd.cnt, hd.payload, f, hfcls, hfmid, hfp, ?frames⟩
  case feed => rw [feedAll_append _ h.feedAll_eq, hd.feedAll_eq]
  case events => rw [eventTrace_bytes_append _ h.feedAll_eq, h.quiet, hd.events, List.nil_append]
  case frames =>
    rw [frameTrace_bytes_append _ h.feedAll_eq, frameTrace_of_quiet h.quiet, hframes, List.nil_append]

/-- Garbage without a sync pair is dropped whole, and the frame after it is delivered. -/
theorem exists_delivered_after_garbage {g : List Byte} (hs : s.structural) (hdata : s.dataOk)
    (hst : s.st = .seekingSync1) (hg : noSyncPair g = true) (hp : p.length ≤ 65535) (hfit : p.length ≤ s.cfg.maxLen.val) :
    ∃ t, Delivered s (g ++ frameBytes c i p) c i p t ∧ t.dropped = (s.dropped + g.length) % 2 ^ s.cfg.dropW := by
  have ⟨hidx, _⟩ := hs
  have ⟨_, hdropped, _⟩ := hdata
  obtain ⟨r, h⟩ := exists_searched hst (hidx (.inl hst)) hdropped hg
  have ⟨_, hdropped', _⟩ := runCycles_keeps_dataOk hdata h.feedAll_eq
  have hsearch := searching_of_st_stAfter h.st
  obtain ⟨t, hd, hcount⟩ := exists_delivered (c := c) (i := i) (runCycles_keeps_structural hs h.feedAll_eq) hsearch hp
    (by rwa [h.cfg])
  obtain ⟨k, hk, hr⟩ := h.dropped
  refine ⟨t, h.delivered hd, ?_⟩
  rw [hcount, dropped_of_held hsearch hdropped', h.cfg, hr, dropCount_add, hk]
  rfl

end Last

/-! ### The obligations -/

/-- Settles O47: a frame that fits is delivered, one that does not is aborted by its length. -/
theorem streamRoundTrip : Obligations.StreamRoundTrip := by
  intro s c i p bs hs ⟨_, hdropped, _⟩ hst hbs
  obtain ⟨hp, rfl⟩ := encodeFrame_ok.1 hbs
  refine ⟨fun hfit => ?fits, exists_aborted hs hst hp⟩
  obtain ⟨t, h, hcount⟩ := exists_delivered (c := c) (i := i) hs hst hp hfit
  refine ⟨t, h.feedAll_eq, h.events, h.ev, h.st, h.cls, h.mid, h.len, h.cnt, h.payload, h.frames, ?_⟩
  rw [hcount]
  split_ifs
  · exact (dropCount_zero hdropped).symm
  · rfl

/-- Settles O48: garbage and frame, twice, the second time from where the first ends. -/
theorem resynchronisation : Obligations.Resynchronisation := by
  intro cfg input g₁ g₂ f₁ f₂ p₁ p₂ c₁ i₁ c₂ i₂ hcfg hg₁ hg₂ hf₁ hf₂ hfit₁ hfit₂
  obtain ⟨hp₁, rfl⟩ := encodeFrame_ok.1 hf₁
  obtain ⟨hp₂, rfl⟩ := encodeFrame_ok.1 hf₂
  have hs := State.resetOf_structural cfg input
  have hdata := State.resetOf_dataOk input hcfg
  obtain ⟨t, ht, htdropped⟩ := exists_delivered_after_garbage (c := c₁) (i := i₁) hs hdata rfl hg₁ hp₁ hfit₁
  have htcfg : t.cfg = cfg := runCycles_keeps_cfg ht.feedAll_eq
  obtain ⟨u, hu, hudropped⟩ := exists_delivered_after_garbage (c := c₂) (i := i₂)
    (runCycles_keeps_structural hs ht.feedAll_eq) (runCycles_keeps_dataOk hdata ht.feedAll_eq) ht.st hg₂ hp₂
    (by rwa [htcfg])
  obtain ⟨a, hacls, hamid, hap, haframes⟩ := ht.frames
  obtain ⟨b, hbcls, hbmid, hbp, hbframes⟩ := hu.frames
  rw [List.append_assoc (g₁ ++ frameBytes c₁ i₁ p₁)]
  refine ⟨t, u, ht.feedAll_eq, ?feed, ?events, ht.ev, ht.cls, ht.mid, ht.len, ht.payload, hu.ev, hu.cls, hu.mid, hu.len,
    hu.payload, ⟨a, b, hacls, hamid, hap, hbcls, hbmid, hbp, ?frames⟩, ?dropped⟩
  case feed => rw [feedAll_append _ ht.feedAll_eq, hu.feedAll_eq]
  case events => rw [eventTrace_bytes_append _ ht.feedAll_eq, ht.events, hu.events]; rfl
  case frames => rw [frameTrace_bytes_append _ ht.feedAll_eq, haframes, hbframes]; rfl
  case dropped =>
    rw [hudropped, htdropped, htcfg]
    simp [State.resetOf, State.reset]

/-- Settles O51: the first delivery leaves a state from which the second is the same. -/
theorem sameFrameTwiceSameResult : Obligations.SameFrameTwiceSameResult := by
  intro s c i p bs hs _ hst hbs hfit
  obtain ⟨hp, rfl⟩ := encodeFrame_ok.1 hbs
  obtain ⟨t, ht, _⟩ := exists_delivered (c := c) (i := i) hs (.inl hst) hp hfit
  obtain ⟨u, hu, _⟩ := exists_delivered (c := c) (i := i) (runCycles_keeps_structural hs ht.feedAll_eq) (.inl ht.st) hp
    (by rwa [runCycles_keeps_cfg ht.feedAll_eq])
  have hread {r r' : State} {bs : List Byte} (h : Delivered r bs c i p r') {o : Nat} (ho : o < p.length) :
      Memory.read r'.pbuf o = some p[o] := by
    simpa using Memory.read_of_readRange h.payload ho
  exact ⟨t, u, ht.feedAll_eq, hu.feedAll_eq, ht.ev, hu.ev, ht.cls, hu.cls, ht.mid, hu.mid,
    BitVec.eq_of_toNat_eq (ht.len.trans hu.len.symm), fun o ho => ⟨hread ht ho, hread hu ho⟩⟩

/-- The bytes a run without resets accepts are the run without its idle cycles. -/
theorem withoutIdles_eq_map_byte {cs : List CycleInput} (hcs : ∀ c ∈ cs, c.rst = false) :
    withoutIdles cs = ((cs.filter fun c => c.inValid).map fun c => c.inData).map .byte := by
  induction cs with
  | nil => rfl
  | cons c cs ih =>
    rw [List.forall_mem_cons] at hcs
    obtain ⟨hrst, hcs⟩ := hcs
    obtain ⟨rst, inValid, d⟩ := c
    subst hrst
    cases inValid with
    | false => exact ih hcs
    | true => exact congrArg _ (ih hcs)

/-- Settles O49: the idle cycles are invisible, and the bytes are held in the frame position. -/
theorem partialFramesAreHeld : Obligations.PartialFramesAreHeld := by
  intro s c i p bs k cs hs hst hbs hfit hk hlt hcs hbytes
  obtain ⟨hp, rfl⟩ := encodeFrame_ok.1 hbs
  rw [frameBytes_length, ← takenLength_of_fits hfit] at hlt
  obtain ⟨u, h⟩ := exists_received (c := c) (i := i) hs (.inl hst) hp hk hlt
  have hidles := withoutIdles_eq_map_byte hcs
  rw [hbytes] at hidles
  obtain ⟨htrace, t, u', ht, hu', hend⟩ := idleCyclesAreInvisible s cs hs
  rw [← withoutIdles, hidles] at htrace hu'
  obtain rfl : u = u' := next_inj.1 (h.feedAll_eq.symm.trans hu')
  have hsame := congrArg State.st hend
  refine ⟨t, ht, htrace.trans h.quiet, fun hback => ?_⟩
  have hpos := framePos_seekingSync1 (s := u) (hsame.symm.trans hback)
  rw [h.pos] at hpos
  omega

/-- Settles O50: the poll is the frame of class 27, id 03 and no payload, so every block takes it. -/
theorem securityPollIsAccepted : Obligations.SecurityPollIsAccepted := by
  refine ⟨rfl, rfl, fun cfg input => ?_⟩
  obtain ⟨t, h, hdropped⟩ := exists_delivered (c := 0x27) (i := 0x03) (p := []) (State.resetOf_structural cfg input)
    (.inl rfl) (Nat.zero_le _) (Nat.zero_le _)
  exact ⟨t, h.feedAll_eq, h.events, h.ev, h.cls, h.mid, BitVec.eq_of_toNat_eq h.len, hdropped⟩

end Sys2Proof.Machine

/-! ## Nothing carries over into later verdicts (spec/60_exceptions.md R131)

What the rest of a run can signal depends on a part of the registers only: the state and the index, `MAX_LEN`, and, while
a frame is taken, what has been kept of that frame. Two states that agree there stay so on the same cycles and signal
alike; in SEEKING_SYNC1 no frame is being taken, so nothing of an earlier one is left in that part. -/

namespace Sys2Proof.Machine

/-- The two states agree in all that a later event can depend on: each register is compared only where an operation
reads it before the next one that overwrites it. -/
structure InStep (s₁ s₂ : State) : Prop where
  maxLen : s₁.cfg.maxLen = s₂.cfg.maxLen
  st : s₁.st = s₂.st
  idx : s₁.idx = s₂.idx
  checksum : ¬ s₁.searching → (s₁.ckA, s₁.ckB) = (s₂.ckA, s₂.ckB)
  len : s₁.betweenLengthBytes ∨ s₁.st = .readingPayload → s₁.len = s₂.len
  cnt : s₁.st = .readingPayload → s₁.cnt = s₂.cnt
  rxA : s₁.st = .readingChecksum → s₁.idx = 1 → s₁.rxA = s₂.rxA

section InStep
variable {s₁ s₂ t₁ t₂ : State} {c : CycleInput} {i : Instr}

/-- In the search a later event depends on the state, the index and `MAX_LEN` only. -/
theorem inStep_of_searching (hmax : s₁.cfg.maxLen = s₂.cfg.maxLen) (hst : s₁.st = s₂.st) (hidx : s₁.idx = s₂.idx)
    (hsearch : s₁.searching) : InStep s₁ s₂ := by
  refine ⟨hmax, hst, hidx, fun h => absurd hsearch h, ?_, ?_, ?_⟩ <;> obtain h | h := hsearch <;> simp [h]

/-- In the header `len` counts only once its low byte is there. -/
theorem inStep_of_readingHeader (hmax : s₁.cfg.maxLen = s₂.cfg.maxLen) (hst : s₁.st = s₂.st) (hidx : s₁.idx = s₂.idx)
    (hheader : s₁.st = .readingHeader) (hck : (s₁.ckA, s₁.ckB) = (s₂.ckA, s₂.ckB))
    (hlen : s₁.idx = 3 → s₁.len = s₂.len) : InStep s₁ s₂ where
  maxLen := hmax
  st := hst
  idx := hidx
  checksum _ := hck
  len h := h.elim (fun ⟨_, h3⟩ => hlen h3) fun h => by simp [hheader] at h
  cnt h := by simp [hheader] at h
  rxA h := by simp [hheader] at h

/-- Equal accumulators stay equal on the same covered byte (R60). -/
theorem InStep.accumulate_checksum (h : InStep s₁ s₂) (v : Byte)
    (hst : s₁.st = .readingHeader ∨ s₁.st = .readingPayload) :
    ((s₁.accumulate v).ckA, (s₁.accumulate v).ckB) = ((s₂.accumulate v).ckA, (s₂.accumulate v).ckB) := by
  have hframe : ¬ s₁.searching := by obtain hst | hst := hst <;> simp [hst]
  exact congrArg (fletcherStep · v) (h.checksum hframe)

/-- The same operation keeps two states in step and signals the same in both. -/
theorem InStep.of_exec (h : InStep s₁ s₂) (h₁ : exec i s₁ = .next t₁) (h₂ : exec i s₂ = .next t₂) :
    InStep t₁ t₂ ∧ t₁.ev = t₂.ev := by
  have hmax := h.maxLen
  cases i with
  | reset =>
    obtain rfl := execReset_next.1 h₁
    obtain rfl := execReset_next.1 h₂
    exact ⟨inStep_of_searching hmax rfl rfl (.inl rfl), rfl⟩
  | idle =>
    obtain rfl := execIdle_next.1 h₁
    obtain rfl := execIdle_next.1 h₂
    exact ⟨⟨hmax, h.st, h.idx, h.checksum, h.len, h.cnt, h.rxA⟩, rfl⟩
  | s1Hit =>
    obtain ⟨_, _, rfl⟩ := execS1Hit_next.1 h₁
    obtain ⟨_, _, rfl⟩ := execS1Hit_next.1 h₂
    exact ⟨inStep_of_searching hmax rfl h.idx (.inr rfl), rfl⟩
  | s1Miss v =>
    obtain ⟨⟨hst, _⟩, _, rfl⟩ := execS1Miss_next.1 h₁
    obtain ⟨_, _, rfl⟩ := execS1Miss_next.1 h₂
    exact ⟨inStep_of_searching hmax h.st h.idx (.inl hst), rfl⟩
  | s2Hit =>
    obtain ⟨_, _, rfl⟩ := execS2Hit_next.1 h₁
    obtain ⟨_, _, rfl⟩ := execS2Hit_next.1 h₂
    exact ⟨inStep_of_readingHeader hmax rfl rfl rfl rfl (by simp), rfl⟩
  | s2Resync =>
    obtain ⟨hst, _, rfl⟩ := execS2Resync_next.1 h₁
    obtain ⟨_, _, rfl⟩ := execS2Resync_next.1 h₂
    exact ⟨inStep_of_searching hmax h.st h.idx (.inr hst), rfl⟩
  | s2Miss v =>
    obtain ⟨_, _, rfl⟩ := execS2Miss_next.1 h₁
    obtain ⟨_, _, rfl⟩ := execS2Miss_next.1 h₂
    exact ⟨inStep_of_searching hmax rfl h.idx (.inl rfl), rfl⟩
  | hClass v =>
    obtain ⟨⟨hst, _⟩, rfl⟩ := execHClass_next.1 h₁
    obtain ⟨_, rfl⟩ := execHClass_next.1 h₂
    have hck := h.accumulate_checksum v (.inl hst)
    exact ⟨inStep_of_readingHeader hmax h.st rfl hst hck (by simp), rfl⟩
  | hId v =>
    obtain ⟨⟨hst, _⟩, rfl⟩ := execHId_next.1 h₁
    obtain ⟨_, rfl⟩ := execHId_next.1 h₂
    have hck := h.accumulate_checksum v (.inl hst)
    exact ⟨inStep_of_readingHeader hmax h.st rfl hst hck (by simp), rfl⟩
  | hLenlo v =>
    obtain ⟨⟨hst, _⟩, rfl⟩ := execHLenlo_next.1 h₁
    obtain ⟨_, rfl⟩ := execHLenlo_next.1 h₂
    have hck := h.accumulate_checksum v (.inl hst)
    exact ⟨inStep_of_readingHeader hmax h.st rfl hst hck fun _ => rfl, rfl⟩
  | hLenhi v =>
    obtain ⟨⟨hst, hidx⟩, rfl⟩ := execHLenhi_next.1 h₁
    obtain ⟨_, rfl⟩ := execHLenhi_next.1 h₂
    have hck := h.accumulate_checksum v (.inl hst)
    have hlen := h.len (.inl ⟨hst, hidx⟩)
    rw [← hmax, ← hlen]
    exact ⟨⟨hmax, rfl, rfl, fun _ => hck, fun _ => rfl, fun _ => rfl, by simp⟩, rfl⟩
  | pByte v =>
    obtain ⟨hst, _, _, rfl⟩ := execPByte_next.1 h₁
    obtain ⟨_, _, _, rfl⟩ := execPByte_next.1 h₂
    have hck := h.accumulate_checksum v (.inr hst)
    have hlen := h.len (.inr hst)
    have hcnt : s₁.cnt + 1 = s₂.cnt + 1 := congrArg (· + 1) (h.cnt hst)
    rw [← hlen, ← hcnt]
    exact ⟨⟨hmax, rfl, rfl, fun _ => hck, fun _ => hlen, fun _ => hcnt, by simp⟩, rfl⟩
  | cA v =>
    obtain ⟨⟨hst, _⟩, rfl⟩ := execCA_next.1 h₁
    obtain ⟨_, rfl⟩ := execCA_next.1 h₂
    exact ⟨⟨hmax, h.st, rfl, h.checksum, by simp [hst], h.cnt, fun _ _ => rfl⟩, rfl⟩
  | cB v =>
    obtain ⟨⟨hst, hidx⟩, rfl⟩ := execCB_next.1 h₁
    obtain ⟨_, rfl⟩ := execCB_next.1 h₂
    obtain ⟨hckA, hckB⟩ := Prod.mk.inj (h.checksum (by simp [hst]))
    refine ⟨inStep_of_searching hmax rfl rfl (.inl rfl), ?_⟩
    rw [State.signal_ev, State.signal_ev, hckA, hckB, h.rxA hst hidx]

/-- The key of a cycle is made of its inputs and of registers in which the two states agree. -/
theorem InStep.selectorKey_eq (h : InStep s₁ s₂) (c : CycleInput) : selectorKey s₁ c = selectorKey s₂ c := by
  rw [selectorKey, selectorKey, h.st, h.idx]

theorem InStep.of_tick (h : InStep s₁ s₂) (h₁ : tick s₁ c = .next t₁) (h₂ : tick s₂ c = .next t₂) :
    InStep t₁ t₂ ∧ t₁.ev = t₂.ev := by
  obtain ⟨i, hi, hexec₁⟩ := tick_next.1 h₁
  obtain ⟨j, hj, hexec₂⟩ := tick_next.1 h₂
  rw [← h.selectorKey_eq] at hj
  obtain rfl := Option.some.inj (hi.symm.trans hj)
  exact h.of_exec hexec₁ hexec₂

/-- The simulation along a run: neither state ever stops, and cycle by cycle the events are the same. -/
theorem InStep.eventTrace_eq {cs : List CycleInput} (h : InStep s₁ s₂) (hs₁ : s₁.structural) (hs₂ : s₂.structural) :
    eventTrace cs s₁ = eventTrace cs s₂ := by
  induction cs generalizing s₁ s₂ with
  | nil => rfl
  | cons c cs ih =>
    obtain ⟨t₁, h₁⟩ := structuralStatesNeverStop s₁ c hs₁
    obtain ⟨t₂, h₂⟩ := structuralStatesNeverStop s₂ c hs₂
    obtain ⟨hstep, hev⟩ := h.of_tick h₁ h₂
    obtain ⟨_, _, hexec₁⟩ := tick_next.1 h₁
    obtain ⟨_, _, hexec₂⟩ := tick_next.1 h₂
    rw [eventTrace_cons cs h₁, eventTrace_cons cs h₂, hev,
      ih hstep (exec_keeps_structural hs₁ hexec₁) (exec_keeps_structural hs₂ hexec₂)]

end InStep

/-- Settles O54: two states in SEEKING_SYNC1 are in step, the index being 0 there (R105). -/
theorem verdictsIgnoreHistory : Obligations.VerdictsIgnoreHistory := by
  intro s₁ s₂ cs hs₁ hs₂ hst₁ hst₂ hmax
  have ⟨hidx₁, _⟩ := hs₁
  have ⟨hidx₂, _⟩ := hs₂
  have hidx : s₁.idx = s₂.idx := (hidx₁ (.inl hst₁)).trans (hidx₂ (.inl hst₂)).symm
  exact (inStep_of_searching hmax (hst₁.trans hst₂.symm) hidx (.inl hst₁)).eventTrace_eq hs₁ hs₂

end Sys2Proof.Machine

/-! ## What the registers hold at each event (spec/60_exceptions.md R126)

C_B gives the verdicts and H_LENHI the abort; neither writes the class or the id, and each finds the accumulators at the
checksum of the covered bytes taken so far (R106). -/

namespace Sys2Proof.Machine

section Descriptor
variable {s t : State} {i : Instr} {v : Byte}

/-! ### Which operation an event comes from -/

theorem exists_cB_of_verdict (h : exec i s = .next t) (hev : t.ev = .frameOk ∨ t.ev = .ckMismatch) :
    ∃ v, i = .cB v := by
  obtain ⟨⟨_, hlarge⟩ | ⟨v, hi, _⟩, _⟩ := exec_signals h (by intro hnone; simp [hnone] at hev)
  · simp [hlarge] at hev
  · exact ⟨v, hi⟩

theorem exists_hLenhi_of_frameTooLarge (h : exec i s = .next t) (hev : t.ev = .frameTooLarge) :
    ∃ v, i = .hLenhi v := by
  obtain ⟨⟨hi, _⟩ | ⟨v, _, hverdict⟩, _⟩ := exec_signals h (by simp [hev])
  · exact hi
  · rw [hev] at hverdict
    obtain hok | hbad := verdict_cases s.ckA s.ckB s.rxA v
    · simp [hok] at hverdict
    · simp [hbad] at hverdict

/-! ### What that operation leaves -/

theorem exec_signal_keeps_cls_mid (h : exec i s = .next t) (hev : t.ev ≠ .none) : t.cls = s.cls ∧ t.mid = s.mid := by
  obtain ⟨⟨⟨v, rfl⟩, _⟩ | ⟨v, rfl, _⟩, _⟩ := exec_signals h hev
  · obtain ⟨_, rfl⟩ := execHLenhi_next.1 h; exact ⟨rfl, rfl⟩
  · obtain ⟨_, rfl⟩ := execCB_next.1 h; exact ⟨rfl, rfl⟩

/-- C_B finds and leaves the whole payload counted and stored, and the checksum of all covered bytes. -/
theorem execCB_whole_frame (hs : s.structural) (hck : s.checksumOk) (h : exec (.cB v) s = .next t) :
    t.cnt = t.len ∧ t.len.toNat ≤ t.cfg.maxLen.val
    ∧ ∃ p, Memory.readRange t.pbuf 0 t.len.toNat = some p ∧ fletcher8 (headerBytes t ++ p) = (t.ckA, t.ckB) := by
  obtain ⟨⟨hst, _⟩, rfl⟩ := execCB_next.1 h
  obtain ⟨_, hchecksum, _⟩ := hs
  obtain ⟨_, hcnt, hmax⟩ := hchecksum hst
  have hpayload := exists_payload_of_checksumOk hck (.inr hst)
  rw [hcnt] at hpayload
  exact ⟨hcnt, hmax, hpayload⟩

theorem execCB_frameOk_bytes (h : exec (.cB v) s = .next t) (hev : t.ev = .frameOk) : t.rxA = t.ckA ∧ v = t.ckB := by
  obtain ⟨_, rfl⟩ := execCB_next.1 h
  exact verdict_eq_frameOk.1 hev

/-- H_LENHI takes the last header byte into the checksum. -/
theorem execHLenhi_header_checksum (hck : s.checksumOk) (h : exec (.hLenhi v) s = .next t) :
    fletcher8 (headerBytes t) = (t.ckA, t.ckB) := by
  obtain ⟨⟨hst, hidx⟩, rfl⟩ := execHLenhi_next.1 h
  obtain ⟨hhead, _⟩ := hck
  rw [hidx] at hhead
  refine .trans ?_ (accumulate_checksum v (hhead hst)).symm
  simp [headerBytes]

theorem execHLenhi_keeps_pbuf_rxA (h : exec (.hLenhi v) s = .next t) : t.pbuf = s.pbuf ∧ t.rxA = s.rxA := by
  obtain ⟨_, rfl⟩ := execHLenhi_next.1 h
  exact ⟨rfl, rfl⟩

end Descriptor

/-- Settles O39, by the operation each event comes from: C_B for the two verdicts, H_LENHI for the abort. -/
theorem eventRecordsDescriptor : Obligations.EventRecordsDescriptor := by
  intro s t c ⟨hs, _, hck⟩ htick
  obtain ⟨i, hdecode, hexec⟩ := tick_next.1 htick
  refine ⟨exec_signal_keeps_cls_mid hexec, fun hev => ?verdict, fun hev => ?ok, State.deliveredFrame_of_ne_frameOk,
    fun hev => ?tooLarge⟩
  case verdict =>
    obtain ⟨v, rfl⟩ := exists_cB_of_verdict hexec hev
    obtain ⟨hcnt, hmax, p, hp, hpck⟩ := execCB_whole_frame hs hck hexec
    exact ⟨hcnt, hmax, by rw [hp, Option.map_some, hpck]⟩
  case ok =>
    obtain ⟨v, rfl⟩ := exists_cB_of_verdict hexec (.inl hev)
    obtain ⟨_, _, _, _, rfl⟩ := decodeKey_selectorKey_cB.1 hdecode
    obtain ⟨hrxA, hbyte⟩ := execCB_frameOk_bytes hexec hev
    obtain ⟨_, _, p, hp, _⟩ := execCB_whole_frame hs hck hexec
    obtain ⟨f, hf, hcls, hmid, rfl⟩ := State.describedFrame_of_readRange hp
    exact ⟨hrxA, hbyte, f, (State.deliveredFrame_of_frameOk hev).trans hf, hcls, hmid, Memory.readRange_length hp, hp⟩
  case tooLarge =>
    obtain ⟨v, rfl⟩ := exists_hLenhi_of_frameTooLarge hexec hev
    obtain ⟨hcnt, habort⟩ := execHLenhi_cnt_ev hexec
    exact ⟨habort.1 hev, hcnt, execHLenhi_header_checksum hck hexec, execHLenhi_keeps_pbuf_rxA hexec⟩

end Sys2Proof.Machine

/-! ## How long the registers keep their values (spec/70_reset_and_hazards.md R145)

An operation that takes a byte writes a register only from a certain frame position on, and a byte advances the position by
one at most (R13). So from SEEKING_SYNC1 on, position 0, the first `b` bytes leave what is written from position `b` on. -/

namespace Sys2Proof.Machine

/-- What a byte taken at the frame position `pos` leaves as it was: S2_HIT clears the accumulators at position 1, the header
writes its registers from 2 on, C_A writes `rx_a` at 6 or later, and P_BYTE writes cell `k` at `6 + k`. -/
structure KeptAt (pos : Nat) (s t : State) : Prop where
  ckA : pos < 1 → t.ckA = s.ckA
  ckB : pos < 1 → t.ckB = s.ckB
  cls : pos < 2 → t.cls = s.cls
  mid : pos < 3 → t.mid = s.mid
  len : pos < 4 → t.len = s.len
  cnt : pos < 5 → t.cnt = s.cnt
  rxA : pos < 6 → t.rxA = s.rxA
  cell : ∀ k, pos < 6 + k → Memory.read t.pbuf k = Memory.read s.pbuf k

/-- No byte taken before the frame position `b` changes what `f` reads of the state. -/
def WrittenFrom {α : Type} (b : Nat) (f : State → α) : Prop :=
  ∀ (i : Instr) (s t : State), rowState? i ≠ none → exec i s = .next t → framePos s < b → f t = f s

section Windows
variable {s t : State} {i : Instr} {v : Byte}

theorem exec_keptAt (hi : rowState? i ≠ none) (h : exec i s = .next t) : KeptAt (framePos s) s t := by
  cases i with
  | reset | idle => exact absurd rfl hi
  | s1Hit => obtain ⟨_, _, rfl⟩ := execS1Hit_next.1 h; constructor <;> simp
  | s1Miss v => obtain ⟨_, _, rfl⟩ := execS1Miss_next.1 h; constructor <;> simp
  | s2Hit =>
    obtain ⟨hst, _, rfl⟩ := execS2Hit_next.1 h
    rw [framePos_seekingSync2 hst]
    constructor <;> simp
  | s2Resync => obtain ⟨_, _, rfl⟩ := execS2Resync_next.1 h; constructor <;> simp
  | s2Miss v => obtain ⟨_, _, rfl⟩ := execS2Miss_next.1 h; constructor <;> simp
  | hClass v =>
    obtain ⟨⟨hst, hidx⟩, rfl⟩ := execHClass_next.1 h
    rw [framePos_of_readingHeader_idx hst hidx]
    constructor <;> simp
  | hId v =>
    obtain ⟨⟨hst, hidx⟩, rfl⟩ := execHId_next.1 h
    rw [framePos_of_readingHeader_idx hst hidx]
    constructor <;> simp
  | hLenlo v =>
    obtain ⟨⟨hst, hidx⟩, rfl⟩ := execHLenlo_next.1 h
    rw [framePos_of_readingHeader_idx hst hidx]
    constructor <;> simp
  | hLenhi v =>
    obtain ⟨⟨hst, hidx⟩, rfl⟩ := execHLenhi_next.1 h
    rw [framePos_of_readingHeader_idx hst hidx]
    constructor <;> simp
  | pByte v =>
    obtain ⟨hst, _, _, rfl⟩ := execPByte_next.1 h
    rw [framePos_readingPayload hst]
    exact ⟨by omega, by omega, fun _ => rfl, fun _ => rfl, fun _ => rfl, by omega, fun _ => rfl,
      fun k hk => Memory.read_write_other _ _ (by omega)⟩
  | cA v =>
    obtain ⟨⟨hst, _⟩, rfl⟩ := execCA_next.1 h
    rw [framePos_readingChecksum hst]
    exact ⟨fun _ => rfl, fun _ => rfl, fun _ => rfl, fun _ => rfl, fun _ => rfl, fun _ => rfl, by omega,
      fun _ _ => rfl⟩
  | cB v => obtain ⟨_, rfl⟩ := execCB_next.1 h; constructor <;> simp

/-- A byte is taken by an operation of a state's row, which advances the frame position by one at most (R13). -/
theorem exists_exec_of_feed (h : feed s v = .next t) :
    ∃ i, rowState? i ≠ none ∧ exec i s = .next t ∧ framePos t ≤ framePos s + 1 := by
  obtain ⟨i, hdecode, hexec⟩ := tick_next.1 h
  rw [decodeKey_selectorKey] at hdecode
  have hi : rowState? i ≠ none := by simp [rowState?_of_dispatchByState hdecode]
  have hbalance := exec_byteBalance hexec hi
  exact ⟨i, hi, hexec, by omega⟩

/-- A run that ends at the frame position `b` at the latest keeps what is written from there on. -/
theorem WrittenFrom.feedAll_eq {α : Type} {b : Nat} {f : State → α} (hf : WrittenFrom b f) {bs : List Byte}
    (hb : framePos s + bs.length ≤ b) (h : feedAll bs s = .next t) : f t = f s := by
  induction bs generalizing s with
  | nil => rw [next_inj.1 h]
  | cons v bs ih =>
    rw [List.length_cons] at hb
    obtain ⟨r, hfeed, hrun⟩ := runCycles_cons_next.1 h
    obtain ⟨i, hi, hexec, hpos⟩ := exists_exec_of_feed hfeed
    calc f t
      _ = f r := ih (by omega) hrun
      _ = f s := hf i s r hi hexec (by omega)

end Windows

/-- Settles O52: each window ends at the frame position from which its register is written. -/
theorem stableWindows : Obligations.StableWindows := by
  intro s bs hs hst
  obtain ⟨t, hrun⟩ := exists_runCycles (bs.map .byte) hs
  have kept {α : Type} {b : Nat} {f : State → α} (hb : bs.length ≤ b) (hf : WrittenFrom b f) : f t = f s :=
    hf.feedAll_eq (by rwa [framePos_seekingSync1 hst, Nat.zero_add]) hrun
  exact ⟨t, hrun,
    fun hb => ⟨kept hb fun _ _ _ hi h => (exec_keptAt hi h).ckA, kept hb fun _ _ _ hi h => (exec_keptAt hi h).ckB⟩,
    fun hb => kept hb fun _ _ _ hi h => (exec_keptAt hi h).cls,
    fun hb => kept hb fun _ _ _ hi h => (exec_keptAt hi h).mid,
    fun hb => kept hb fun _ _ _ hi h => (exec_keptAt hi h).len,
    fun hb => kept hb fun _ _ _ hi h => (exec_keptAt hi h).cnt,
    fun hb => kept hb fun _ _ _ hi h => (exec_keptAt hi h).rxA,
    fun k hb => kept (f := fun r => Memory.read r.pbuf k) hb fun _ _ _ hi h => (exec_keptAt hi h).cell k⟩

end Sys2Proof.Machine

/-! ## The buffer influences nothing else (spec/93_implementation_defined.md U2)

P_BYTE writes the buffer and no operation reads it, so with other contents every operation does the same to the registers. -/

namespace Sys2Proof.Machine

/-- `s` with `m` as the contents of the payload buffer. -/
def State.withPbuf (s : State) (m : Memory) : State := { s with pbuf := m }

theorem State.agreeButPbuf_withPbuf (s : State) (m : Memory) : s.agreeButPbuf (s.withPbuf m) := rfl

section Buffer
variable {s t : State} {i : Instr}

/-- The buffer's contents after the operation differ from `m` by at most the byte P_BYTE stores. -/
theorem exists_exec_withPbuf (h : exec i s = .next t) (m : Memory) :
    ∃ m', exec i (s.withPbuf m) = .next (t.withPbuf m') := by
  cases i with
  | reset => obtain rfl := execReset_next.1 h; exact ⟨m, rfl⟩
  | idle => obtain rfl := execIdle_next.1 h; exact ⟨m, rfl⟩
  | s1Hit => obtain ⟨hst, hidx, rfl⟩ := execS1Hit_next.1 h; exact ⟨m, execS1Hit_next.2 ⟨hst, hidx, rfl⟩⟩
  | s1Miss v => obtain ⟨hst, hidx, rfl⟩ := execS1Miss_next.1 h; exact ⟨m, execS1Miss_next.2 ⟨hst, hidx, rfl⟩⟩
  | s2Hit => obtain ⟨hst, hidx, rfl⟩ := execS2Hit_next.1 h; exact ⟨m, execS2Hit_next.2 ⟨hst, hidx, rfl⟩⟩
  | s2Resync => obtain ⟨hst, hidx, rfl⟩ := execS2Resync_next.1 h; exact ⟨m, execS2Resync_next.2 ⟨hst, hidx, rfl⟩⟩
  | s2Miss v => obtain ⟨hst, hidx, rfl⟩ := execS2Miss_next.1 h; exact ⟨m, execS2Miss_next.2 ⟨hst, hidx, rfl⟩⟩
  | hClass v => obtain ⟨hsel, rfl⟩ := execHClass_next.1 h; exact ⟨m, execHClass_next.2 ⟨hsel, rfl⟩⟩
  | hId v => obtain ⟨hsel, rfl⟩ := execHId_next.1 h; exact ⟨m, execHId_next.2 ⟨hsel, rfl⟩⟩
  | hLenlo v => obtain ⟨hsel, rfl⟩ := execHLenlo_next.1 h; exact ⟨m, execHLenlo_next.2 ⟨hsel, rfl⟩⟩
  | hLenhi v => obtain ⟨hsel, rfl⟩ := execHLenhi_next.1 h; exact ⟨m, execHLenhi_next.2 ⟨hsel, rfl⟩⟩
  | pByte v =>
    obtain ⟨hst, hdefined, hmax, rfl⟩ := execPByte_next.1 h
    exact ⟨Memory.write m s.cnt.toNat v, execPByte_next.2 ⟨hst, hdefined, hmax, rfl⟩⟩
  | cA v => obtain ⟨hsel, rfl⟩ := execCA_next.1 h; exact ⟨m, execCA_next.2 ⟨hsel, rfl⟩⟩
  | cB v => obtain ⟨hsel, rfl⟩ := execCB_next.1 h; exact ⟨m, execCB_next.2 ⟨hsel, rfl⟩⟩

theorem exists_tick_withPbuf {c : CycleInput} (h : tick s c = .next t) (m : Memory) :
    ∃ m', tick (s.withPbuf m) c = .next (t.withPbuf m') := by
  obtain ⟨i, hdecode, hexec⟩ := tick_next.1 h
  obtain ⟨m', hexec'⟩ := exists_exec_withPbuf hexec m
  exact ⟨m', tick_next.2 ⟨i, hdecode, hexec'⟩⟩

theorem exists_runCycles_withPbuf {cs : List CycleInput} (h : runCycles cs s = .next t) (m : Memory) :
    ∃ m', runCycles cs (s.withPbuf m) = .next (t.withPbuf m') ∧ eventTrace cs (s.withPbuf m) = eventTrace cs s := by
  induction cs generalizing s m with
  | nil =>
    obtain rfl := next_inj.1 h
    exact ⟨m, rfl, rfl⟩
  | cons c cs ih =>
    obtain ⟨r, htick, hrun⟩ := runCycles_cons_next.1 h
    obtain ⟨m₁, htick'⟩ := exists_tick_withPbuf htick m
    obtain ⟨m', hrun', htrace⟩ := ih hrun m₁
    refine ⟨m', runCycles_cons_next.2 ⟨_, htick', hrun'⟩, ?_⟩
    rw [eventTrace_cons cs htick', htrace, eventTrace_cons cs htick]
    rfl

end Buffer

/-- Settles O53: the run from `s` completes, and with other contents of the buffer it is the same but for them. -/
theorem pbufNeverInfluencesRegisters : Obligations.PbufNeverInfluencesRegisters := by
  intro s m cs hs
  obtain ⟨t, hrun⟩ := exists_runCycles cs hs
  obtain ⟨m', hrun', htrace⟩ := exists_runCycles_withPbuf hrun m
  exact ⟨htrace, t, t.withPbuf m', hrun, hrun', t.agreeButPbuf_withPbuf m'⟩

end Sys2Proof.Machine

/-! ## Where the model stops (spec/93_implementation_defined.md U4, notes/assumptions/2, 7, 8 and 9) -/

namespace Sys2Proof.Machine

section Stops
variable {s : State} {p : Prop} [Decidable p] {o : Host.Outcome State Fault Refusal}

theorem whenSelected_of (h : p) : whenSelected p o = o := if_pos h

theorem whenSelected_of_not (h : ¬ p) : whenSelected p o = .refused .notSelected := if_neg h

theorem whenDefined_of (h : p) : whenDefined p o = o := if_pos h

theorem whenDefined_of_not (h : ¬ p) : whenDefined p o = .refused .undefinedState := if_neg h

/-- A byte operation that its row selects stops in the states U4 leaves without a meaning. -/
theorem whenSelected_whenDefined_of_not {q : Prop} [Decidable q] (hp : p) (hq : ¬ q) :
    whenSelected p (whenDefined q o) = .refused .undefinedState :=
  (whenSelected_of hp).trans (whenDefined_of_not hq)

/-- In READING_PAYLOAD, between two bytes, P_BYTE has no address to write at `MAX_LEN` or above (R31). -/
theorem execPByte_fault {v : Byte} (hst : s.st = .readingPayload) (hidx : s.idx = 0) (hcnt : s.cnt.toNat < s.len.toNat)
    (hmax : s.cfg.maxLen.val ≤ s.cnt.toNat) : exec (.pByte v) s = .fault .pbufAddress := by
  rw [exec, execPByte, whenSelected_of hst, whenDefined_of ⟨hidx, hcnt⟩, if_neg hmax.not_gt]

theorem tick_of_decodeKey_none {c : CycleInput} (h : decodeKey (selectorKey s c) = none) :
    tick s c = .refused .reservedKey := by
  rw [tick, h]

/-- READING_CHECKSUM with `idx` above 1 and a byte is one of the reserved keys of R53. -/
theorem decodeKey_selectorKey_reserved (v : Byte) (hst : s.st = .readingChecksum) (hidx : 2 ≤ s.idx.toNat) :
    decodeKey (selectorKey s (.byte v)) = none := by
  rw [selectorKey, hst]
  exact decodeKey_byte_eq_none.2 (.inr ⟨rfl, hidx⟩)

end Stops

/-- Settles O18: where an operation's guard holds, the byte it carries or is for selects it; RESET and IDLE are selected in
every state. -/
theorem unselectedOperationsRefused : Obligations.UnselectedOperationsRefused := by
  intro i s h
  cases i with
  | reset => exact absurd (decodeKey_selectorKey_reset.2 rfl) (h .reset)
  | idle => exact absurd (decodeKey_selectorKey_idle.2 ⟨rfl, rfl⟩) (h .idle)
  | s1Hit =>
    exact whenSelected_of_not fun hst =>
      h (.byte sync1) ((decodeKey_selectorKey_seekingSync1 rfl).2 ⟨rfl, rfl, hst, if_pos rfl⟩)
  | s1Miss v =>
    exact whenSelected_of_not fun ⟨hst, hv⟩ =>
      h (.byte v) ((decodeKey_selectorKey_seekingSync1 rfl).2 ⟨rfl, rfl, hst, if_neg hv⟩)
  | s2Hit =>
    exact whenSelected_of_not fun hst =>
      h (.byte sync2) ((decodeKey_selectorKey_seekingSync2 rfl).2 ⟨rfl, rfl, hst, if_pos rfl⟩)
  | s2Resync =>
    exact whenSelected_of_not fun hst =>
      h (.byte sync1) ((decodeKey_selectorKey_seekingSync2 rfl).2 ⟨rfl, rfl, hst, if_neg sync1_ne_sync2⟩)
  | s2Miss v =>
    exact whenSelected_of_not fun ⟨hst, hv2, hv1⟩ =>
      h (.byte v) ((decodeKey_selectorKey_seekingSync2 rfl).2 ⟨rfl, rfl, hst, (if_neg hv2).trans (if_neg hv1)⟩)
  | hClass v =>
    exact whenSelected_of_not fun ⟨hst, hidx⟩ =>
      h (.byte v) ((decodeKey_selectorKey_headerOp (k := 0)).2 ⟨rfl, rfl, hst, hidx, rfl⟩)
  | hId v =>
    exact whenSelected_of_not fun ⟨hst, hidx⟩ =>
      h (.byte v) ((decodeKey_selectorKey_headerOp (k := 1)).2 ⟨rfl, rfl, hst, hidx, rfl⟩)
  | hLenlo v =>
    exact whenSelected_of_not fun ⟨hst, hidx⟩ =>
      h (.byte v) ((decodeKey_selectorKey_headerOp (k := 2)).2 ⟨rfl, rfl, hst, hidx, rfl⟩)
  | hLenhi v =>
    exact whenSelected_of_not fun ⟨hst, hidx⟩ =>
      h (.byte v) ((decodeKey_selectorKey_headerOp (k := 3)).2 ⟨rfl, rfl, hst, hidx, rfl⟩)
  | pByte v =>
    exact whenSelected_of_not fun hst => h (.byte v) (decodeKey_selectorKey_pByte.2 ⟨rfl, rfl, hst, rfl⟩)
  | cA v =>
    exact whenSelected_of_not fun ⟨hst, hidx⟩ =>
      h (.byte v) (decodeKey_selectorKey_cA.2 ⟨rfl, rfl, hst, hidx, rfl⟩)
  | cB v =>
    exact whenSelected_of_not fun ⟨hst, hidx⟩ =>
      h (.byte v) (decodeKey_selectorKey_cB.2 ⟨rfl, rfl, hst, hidx, rfl⟩)

/-- Settles O19: each operation is selected, and then its own check fails. -/
theorem undefinedStatesStop : Obligations.UndefinedStatesStop := by
  refine fun s v => ⟨fun hst hidx => ?sync1, fun hst hidx => ?sync2, fun hst hbad => ?payload,
    fun hst hidx hcnt hmax => execPByte_fault hst hidx hcnt hmax,
    fun hst hidx => tick_of_decodeKey_none (decodeKey_selectorKey_reserved v hst hidx)⟩
  case sync1 =>
    exact ⟨whenSelected_whenDefined_of_not hst hidx, fun hv => whenSelected_whenDefined_of_not ⟨hst, hv⟩ hidx⟩
  case sync2 =>
    exact ⟨whenSelected_whenDefined_of_not hst hidx, whenSelected_whenDefined_of_not hst hidx,
      fun hv2 hv1 => whenSelected_whenDefined_of_not ⟨hst, hv2, hv1⟩ hidx⟩
  case payload =>
    have hundefined : ¬(s.idx = 0 ∧ s.cnt.toNat < s.len.toNat) := fun ⟨hidx, hcnt⟩ =>
      hbad.elim (fun hne => hne hidx) hcnt.not_ge
    exact whenSelected_whenDefined_of_not hst hundefined

/-- Settles O20, by the one place where `step` looks at the pending inputs. -/
theorem stepStopsAtEndOfInput : Obligations.StepStopsAtEndOfInput := by
  intro s h
  rw [step, stepPending, h]

/-! ## A count above the length (spec/45_properties.md R105, notes/assumptions/6) -/

theorem Reachable.of_runCycles {s t : State} {cs : List CycleInput} (hs : Reachable s) (h : runCycles cs s = .next t) :
    Reachable t := by
  induction cs generalizing s with
  | nil => rwa [← next_inj.1 h]
  | cons c cs ih =>
    obtain ⟨r, htick, hrun⟩ := runCycles_cons_next.1 h
    exact ih (.tick s r c hs htick) hrun

/-- A whole frame with a payload of one byte, and the first five bytes of one with an empty payload: the last byte taken is
the low length byte (R82). -/
def oneByteFrameThenPoll : List Byte :=
  [0xB5, 0x62, 0x27, 0x03, 0x01, 0x00, 0x2A, 0x55, 0xFC] ++ [0xB5, 0x62, 0x27, 0x03, 0x00]

/-- Where these bytes lead: `len` is the new frame's, `cnt` still the older one's. -/
def countAboveLength : State :=
  { State.resetOf ⟨16, 32⟩ [] with
    st := .readingHeader, idx := 3, cnt := 1, cls := 0x27, mid := 0x03, len := 0
    ckA := 0x2A, ckB := 0x7B, rxA := 0x55, pbuf := [(0, 0x2A)] }

theorem feedAll_oneByteFrameThenPoll :
    feedAll oneByteFrameThenPoll (State.resetOf ⟨16, 32⟩ []) = .next countAboveLength := rfl

/-- Refutes O35: between the two length bytes of a shorter frame `cnt` is 1 and `len` is 0. -/
theorem not_countNeverExceedsLength : ¬ Obligations.CountNeverExceedsLength := by
  intro h
  have hreach : Reachable countAboveLength :=
    (Reachable.reset ⟨16, 32⟩ [] (by decide)).of_runCycles feedAll_oneByteFrameThenPoll
  have hviolated : ¬ countAboveLength.countLine := by decide
  exact hviolated (h countAboveLength hreach)

end Sys2Proof.Machine
